-- ==== Sys2Proof/Word.lean ====
section
/-! DEFINITION. The word types of the machine (R5, R8 of 00_scope.md). -/

namespace Sys2Proof

/-- A 32-bit register value, address or ARM instruction word. -/
abbrev Word := BitVec 32

/-- A 16-bit halfword: an I/O register, a THUMB instruction. -/
abbrev Half := BitVec 16

/-- A byte of memory. -/
abbrev Byte := BitVec 8

/-- A register number of an ARM field or of THUMB format 5: R0 to R15 (R20 of 10_state.md). -/
abbrev Reg := BitVec 4

/-- A register number of a THUMB 3-bit field: R0 to R7 (R310 of 48_thumb_alu.md). -/
abbrev LowReg := BitVec 3

end Sys2Proof
end

