-- ==== Sys2Proof/Syntax.lean ====
section
/-! DEFINITION. The instructions: one constructor for each of the 116 rows of opcode_table.json.
Fields the decoder ignores (R217, R230, R231, R241, R260, R341) are not part of the syntax. -/

namespace Sys2Proof

/-- The sixteen condition codes in code order (R111 of 30_encoding.md); `nv` is the reserved code 0xF. -/
inductive Cond where
  | eq | ne | cs | cc | mi | pl | vs | vc | hi | ls | ge | lt | gt | le | al | nv
  deriving DecidableEq, Repr

/-- The shift types in code order (R115 of 30_encoding.md). -/
inductive ShiftType where
  | lsl | lsr | asr | ror
  deriving DecidableEq, Repr

/-- Operand 2 of a data-processing instruction (R114, R115 of 30_encoding.md). -/
inductive Operand2 where
  | imm (rotate : BitVec 4) (imm8 : BitVec 8)
  | shiftImm (rm : Reg) (ty : ShiftType) (amount : BitVec 5)
  | shiftReg (rm : Reg) (ty : ShiftType) (rs : Reg)
  deriving DecidableEq, Repr

/-- The offset of a single data transfer (R118 of 30_encoding.md). -/
inductive SdtOffset where
  | imm (offset : BitVec 12)
  | reg (rm : Reg) (ty : ShiftType) (amount : BitVec 5)
  deriving DecidableEq, Repr

/-- The offset of a halfword or signed data transfer (R119 of 30_encoding.md). -/
inductive HsdtOffset where
  | imm (offset : BitVec 8)
  | reg (rm : Reg)
  deriving DecidableEq, Repr

/-- The source of MSR (R116 of 30_encoding.md). -/
inductive MsrOperand where
  | imm (rotate : BitVec 4) (imm8 : BitVec 8)
  | reg (rm : Reg)
  deriving DecidableEq, Repr

/-- The instruction set. The first 52 constructors are the ARM rows, in the table's order, the last 64 the THUMB rows.
In ARM constructors `c` is the condition; `sf` the S bit; `p u w` the P, U and W bits. -/
inductive Instr where
  | bx (c : Cond) (rn : Reg)
  | mul (c : Cond) (sf : Bool) (rd rs rm : Reg)
  | mla (c : Cond) (sf : Bool) (rd rn rs rm : Reg)
  | umull (c : Cond) (sf : Bool) (rdHi rdLo rs rm : Reg)
  | umlal (c : Cond) (sf : Bool) (rdHi rdLo rs rm : Reg)
  | smull (c : Cond) (sf : Bool) (rdHi rdLo rs rm : Reg)
  | smlal (c : Cond) (sf : Bool) (rdHi rdLo rs rm : Reg)
  | swp (c : Cond) (rn rd rm : Reg)
  | swpb (c : Cond) (rn rd rm : Reg)
  | strh (c : Cond) (p u w : Bool) (rn rd : Reg) (off : HsdtOffset)
  | ldrh (c : Cond) (p u w : Bool) (rn rd : Reg) (off : HsdtOffset)
  | ldrsb (c : Cond) (p u w : Bool) (rn rd : Reg) (off : HsdtOffset)
  | ldrsh (c : Cond) (p u w : Bool) (rn rd : Reg) (off : HsdtOffset)
  | undefHalf (c : Cond) (raw : BitVec 28)
  | undefMul (c : Cond) (raw : BitVec 28)
  | mrs (c : Cond) (spsr : Bool) (rd : Reg)
  | msr (c : Cond) (spsr : Bool) (mask : BitVec 4) (src : MsrOperand)
  | and (c : Cond) (sf : Bool) (rn rd : Reg) (o : Operand2)
  | eor (c : Cond) (sf : Bool) (rn rd : Reg) (o : Operand2)
  | sub (c : Cond) (sf : Bool) (rn rd : Reg) (o : Operand2)
  | rsb (c : Cond) (sf : Bool) (rn rd : Reg) (o : Operand2)
  | add (c : Cond) (sf : Bool) (rn rd : Reg) (o : Operand2)
  | adc (c : Cond) (sf : Bool) (rn rd : Reg) (o : Operand2)
  | sbc (c : Cond) (sf : Bool) (rn rd : Reg) (o : Operand2)
  | rsc (c : Cond) (sf : Bool) (rn rd : Reg) (o : Operand2)
  | tst (c : Cond) (rn : Reg) (o : Operand2)
  | teq (c : Cond) (rn : Reg) (o : Operand2)
  | cmp (c : Cond) (rn : Reg) (o : Operand2)
  | cmn (c : Cond) (rn : Reg) (o : Operand2)
  | orr (c : Cond) (sf : Bool) (rn rd : Reg) (o : Operand2)
  | mov (c : Cond) (sf : Bool) (rd : Reg) (o : Operand2)
  | bic (c : Cond) (sf : Bool) (rn rd : Reg) (o : Operand2)
  | mvn (c : Cond) (sf : Bool) (rd : Reg) (o : Operand2)
  | undefMedia (c : Cond) (raw : BitVec 28)
  | str (c : Cond) (p u w : Bool) (rn rd : Reg) (off : SdtOffset)
  | ldr (c : Cond) (p u w : Bool) (rn rd : Reg) (off : SdtOffset)
  | strb (c : Cond) (p u w : Bool) (rn rd : Reg) (off : SdtOffset)
  | ldrb (c : Cond) (p u w : Bool) (rn rd : Reg) (off : SdtOffset)
  | strt (c : Cond) (u : Bool) (rn rd : Reg) (off : SdtOffset)
  | ldrt (c : Cond) (u : Bool) (rn rd : Reg) (off : SdtOffset)
  | strbt (c : Cond) (u : Bool) (rn rd : Reg) (off : SdtOffset)
  | ldrbt (c : Cond) (u : Bool) (rn rd : Reg) (off : SdtOffset)
  | stm (c : Cond) (p u sb w : Bool) (rn : Reg) (list : BitVec 16)
  | ldm (c : Cond) (p u sb w : Bool) (rn : Reg) (list : BitVec 16)
  | b (c : Cond) (off : BitVec 24)
  | bl (c : Cond) (off : BitVec 24)
  | stc (c : Cond) (p u n w : Bool) (rn crd cpn : BitVec 4) (off : BitVec 8)
  | ldc (c : Cond) (p u n w : Bool) (rn crd cpn : BitVec 4) (off : BitVec 8)
  | cdp (c : Cond) (opc crn crd cpn : BitVec 4) (cp : BitVec 3) (crm : BitVec 4)
  | mcr (c : Cond) (opc : BitVec 3) (crn rd cpn : BitVec 4) (cp : BitVec 3) (crm : BitVec 4)
  | mrc (c : Cond) (opc : BitVec 3) (crn rd cpn : BitVec 4) (cp : BitVec 3) (crm : BitVec 4)
  | swi (c : Cond) (comment : BitVec 24)
  | tAddReg (rn rs rd : LowReg)
  | tSubReg (rn rs rd : LowReg)
  | tAddImm3 (imm : BitVec 3) (rs rd : LowReg)
  | tSubImm3 (imm : BitVec 3) (rs rd : LowReg)
  | tLslImm (imm : BitVec 5) (rs rd : LowReg)
  | tLsrImm (imm : BitVec 5) (rs rd : LowReg)
  | tAsrImm (imm : BitVec 5) (rs rd : LowReg)
  | tMovImm (rd : LowReg) (imm : BitVec 8)
  | tCmpImm (rd : LowReg) (imm : BitVec 8)
  | tAddImm8 (rd : LowReg) (imm : BitVec 8)
  | tSubImm8 (rd : LowReg) (imm : BitVec 8)
  | tAnd (rs rd : LowReg)
  | tEor (rs rd : LowReg)
  | tLsl (rs rd : LowReg)
  | tLsr (rs rd : LowReg)
  | tAsr (rs rd : LowReg)
  | tAdc (rs rd : LowReg)
  | tSbc (rs rd : LowReg)
  | tRor (rs rd : LowReg)
  | tTst (rs rd : LowReg)
  | tNeg (rs rd : LowReg)
  | tCmp (rs rd : LowReg)
  | tCmn (rs rd : LowReg)
  | tOrr (rs rd : LowReg)
  | tMul (rs rd : LowReg)
  | tBic (rs rd : LowReg)
  | tMvn (rs rd : LowReg)
  | tAddHi (rs rd : Reg)
  | tCmpHi (rs rd : Reg)
  | tMovHi (rs rd : Reg)
  | tBx (rs : Reg)
  | tLdrPc (rd : LowReg) (word8 : BitVec 8)
  | tStrReg (ro rb rd : LowReg)
  | tStrbReg (ro rb rd : LowReg)
  | tLdrReg (ro rb rd : LowReg)
  | tLdrbReg (ro rb rd : LowReg)
  | tStrhReg (ro rb rd : LowReg)
  | tLdrhReg (ro rb rd : LowReg)
  | tLdsbReg (ro rb rd : LowReg)
  | tLdshReg (ro rb rd : LowReg)
  | tStrImm (imm : BitVec 5) (rb rd : LowReg)
  | tLdrImm (imm : BitVec 5) (rb rd : LowReg)
  | tStrbImm (imm : BitVec 5) (rb rd : LowReg)
  | tLdrbImm (imm : BitVec 5) (rb rd : LowReg)
  | tStrhImm (imm : BitVec 5) (rb rd : LowReg)
  | tLdrhImm (imm : BitVec 5) (rb rd : LowReg)
  | tStrSp (rd : LowReg) (word8 : BitVec 8)
  | tLdrSp (rd : LowReg) (word8 : BitVec 8)
  | tAddPc (rd : LowReg) (word8 : BitVec 8)
  | tAddSp (rd : LowReg) (word8 : BitVec 8)
  | tAddSpImm (sword7 : BitVec 7)
  | tSubSpImm (sword7 : BitVec 7)
  | tPush (lr : Bool) (list : BitVec 8)
  | tPop (pc : Bool) (list : BitVec 8)
  | tUndefB (raw : BitVec 12)
  | tStmia (rb : LowReg) (list : BitVec 8)
  | tLdmia (rb : LowReg) (list : BitVec 8)
  | tSwi (value8 : BitVec 8)
  | tUndefDE (raw : BitVec 8)
  | tBcond (c : Cond) (off : BitVec 8)
  | tB (off : BitVec 11)
  | tUndefE8 (raw : BitVec 11)
  | tBlPrefix (off : BitVec 11)
  | tBlSuffix (off : BitVec 11)
  deriving DecidableEq, Repr

/-- Whether the instruction belongs to the THUMB set (R110 of 30_encoding.md). -/
def Instr.isThumb : Instr → Bool
  | .bx .. | .mul .. | .mla .. | .umull .. | .umlal .. | .smull .. | .smlal .. | .swp .. | .swpb ..
  | .strh .. | .ldrh .. | .ldrsb .. | .ldrsh .. | .undefHalf .. | .undefMul .. | .mrs .. | .msr ..
  | .and .. | .eor .. | .sub .. | .rsb .. | .add .. | .adc .. | .sbc .. | .rsc ..
  | .tst .. | .teq .. | .cmp .. | .cmn .. | .orr .. | .mov .. | .bic .. | .mvn .. | .undefMedia ..
  | .str .. | .ldr .. | .strb .. | .ldrb .. | .strt .. | .ldrt .. | .strbt .. | .ldrbt ..
  | .stm .. | .ldm .. | .b .. | .bl .. | .stc .. | .ldc .. | .cdp .. | .mcr .. | .mrc .. | .swi .. => false
  | .tAddReg .. | .tSubReg .. | .tAddImm3 .. | .tSubImm3 .. | .tLslImm .. | .tLsrImm .. | .tAsrImm ..
  | .tMovImm .. | .tCmpImm .. | .tAddImm8 .. | .tSubImm8 .. | .tAnd .. | .tEor .. | .tLsl .. | .tLsr ..
  | .tAsr .. | .tAdc .. | .tSbc .. | .tRor .. | .tTst .. | .tNeg .. | .tCmp .. | .tCmn .. | .tOrr ..
  | .tMul .. | .tBic .. | .tMvn .. | .tAddHi .. | .tCmpHi .. | .tMovHi .. | .tBx .. | .tLdrPc ..
  | .tStrReg .. | .tStrbReg .. | .tLdrReg .. | .tLdrbReg .. | .tStrhReg .. | .tLdrhReg .. | .tLdsbReg ..
  | .tLdshReg .. | .tStrImm .. | .tLdrImm .. | .tStrbImm .. | .tLdrbImm .. | .tStrhImm .. | .tLdrhImm ..
  | .tStrSp .. | .tLdrSp .. | .tAddPc .. | .tAddSp .. | .tAddSpImm .. | .tSubSpImm .. | .tPush .. | .tPop ..
  | .tUndefB .. | .tStmia .. | .tLdmia .. | .tSwi .. | .tUndefDE .. | .tBcond .. | .tB .. | .tUndefE8 ..
  | .tBlPrefix .. | .tBlSuffix .. => true

/-- The condition of an ARM instruction; THUMB instructions have none (R128), so they read as AL here.
The condition of `tBcond` is an operand of its own rule (R386). -/
def Instr.cond : Instr → Cond
  | .bx c .. | .mul c .. | .mla c .. | .umull c .. | .umlal c .. | .smull c .. | .smlal c .. | .swp c .. | .swpb c ..
  | .strh c .. | .ldrh c .. | .ldrsb c .. | .ldrsh c .. | .undefHalf c .. | .undefMul c .. | .mrs c .. | .msr c ..
  | .and c .. | .eor c .. | .sub c .. | .rsb c .. | .add c .. | .adc c .. | .sbc c .. | .rsc c ..
  | .tst c .. | .teq c .. | .cmp c .. | .cmn c .. | .orr c .. | .mov c .. | .bic c .. | .mvn c .. | .undefMedia c ..
  | .str c .. | .ldr c .. | .strb c .. | .ldrb c .. | .strt c .. | .ldrt c .. | .strbt c .. | .ldrbt c ..
  | .stm c .. | .ldm c .. | .b c .. | .bl c .. | .stc c .. | .ldc c .. | .cdp c .. | .mcr c .. | .mrc c .. | .swi c .. => c
  | .tAddReg .. | .tSubReg .. | .tAddImm3 .. | .tSubImm3 .. | .tLslImm .. | .tLsrImm .. | .tAsrImm ..
  | .tMovImm .. | .tCmpImm .. | .tAddImm8 .. | .tSubImm8 .. | .tAnd .. | .tEor .. | .tLsl .. | .tLsr ..
  | .tAsr .. | .tAdc .. | .tSbc .. | .tRor .. | .tTst .. | .tNeg .. | .tCmp .. | .tCmn .. | .tOrr ..
  | .tMul .. | .tBic .. | .tMvn .. | .tAddHi .. | .tCmpHi .. | .tMovHi .. | .tBx .. | .tLdrPc ..
  | .tStrReg .. | .tStrbReg .. | .tLdrReg .. | .tLdrbReg .. | .tStrhReg .. | .tLdrhReg .. | .tLdsbReg ..
  | .tLdshReg .. | .tStrImm .. | .tLdrImm .. | .tStrbImm .. | .tLdrbImm .. | .tStrhImm .. | .tLdrhImm ..
  | .tStrSp .. | .tLdrSp .. | .tAddPc .. | .tAddSp .. | .tAddSpImm .. | .tSubSpImm .. | .tPush .. | .tPop ..
  | .tUndefB .. | .tStmia .. | .tLdmia .. | .tSwi .. | .tUndefDE .. | .tBcond .. | .tB .. | .tUndefE8 ..
  | .tBlPrefix .. | .tBlSuffix .. => .al

end Sys2Proof
end

