-- ==== Sys2Proof/WellFormed.lean ====
section
/-! DEFINITION. Which terms of `Instr` are instructions: the checks the type does not make.
Every one is a fact of the opcode table's rows: what a row's match, `where` or a lower priority leaves out (R127, R132, R137). -/

namespace Sys2Proof

/-- The rows STR, LDR, STRB, LDRB exclude P = 0 with W = 1, which the user-mode rows take (R137 of 30_encoding.md). -/
def sdtFormOk (p w : Bool) : Bool := p || !w

/-- Row 13: the halfword format with L = 0 and S = 1 (test 5 of R127). -/
def undefHalfOk (raw : BitVec 28) : Bool :=
  raw &&& 0xE1000D0#28 == 0x00000D0#28

/-- Row 14: bits 7:4 = 1001 in the multiply space, not claimed by tests 2, 3, 4 of R127. -/
def undefMulOk (raw : BitVec 28) : Bool :=
  raw &&& 0xE0000F0#28 == 0x0000090#28
    && !(raw &&& 0xFC000F0#28 == 0x0000090#28)
    && !(raw &&& 0xF8000F0#28 == 0x0800090#28)
    && !(raw &&& 0xFB00FF0#28 == 0x1000090#28)

/-- Row 33: bits 27:25 = 011 and bit 4 = 1 (test 8 of R127). -/
def undefMediaOk (raw : BitVec 28) : Bool :=
  raw &&& 0xE000010#28 == 0x6000010#28

/-- Row 106: the part of 0xB000 to 0xBFFF that is neither format 13 nor format 14 (R133). -/
def undefBOk (raw : BitVec 12) : Bool :=
  !(raw &&& 0xF00#12 == 0x000#12) && !(raw &&& 0x600#12 == 0x400#12)

/-- Format 16 has the condition codes 0x0 to 0xD (R131, R162). -/
def bcondOk (c : Cond) : Bool := c != .al && c != .nv

/-- A term that is an instruction of the table. -/
def Instr.wellFormed : Instr → Bool
  | .str _ p _ w .. | .ldr _ p _ w .. | .strb _ p _ w .. | .ldrb _ p _ w .. => sdtFormOk p w
  | .undefHalf _ raw => undefHalfOk raw
  | .undefMul _ raw => undefMulOk raw
  | .undefMedia _ raw => undefMediaOk raw
  | .tUndefB raw => undefBOk raw
  | .tBcond c _ => bcondOk c
  | .bx .. | .mul .. | .mla .. | .umull .. | .umlal .. | .smull .. | .smlal .. | .swp .. | .swpb ..
  | .strh .. | .ldrh .. | .ldrsb .. | .ldrsh .. | .mrs .. | .msr ..
  | .and .. | .eor .. | .sub .. | .rsb .. | .add .. | .adc .. | .sbc .. | .rsc ..
  | .tst .. | .teq .. | .cmp .. | .cmn .. | .orr .. | .mov .. | .bic .. | .mvn ..
  | .strt .. | .ldrt .. | .strbt .. | .ldrbt ..
  | .stm .. | .ldm .. | .b .. | .bl .. | .stc .. | .ldc .. | .cdp .. | .mcr .. | .mrc .. | .swi ..
  | .tAddReg .. | .tSubReg .. | .tAddImm3 .. | .tSubImm3 .. | .tLslImm .. | .tLsrImm .. | .tAsrImm ..
  | .tMovImm .. | .tCmpImm .. | .tAddImm8 .. | .tSubImm8 .. | .tAnd .. | .tEor .. | .tLsl .. | .tLsr ..
  | .tAsr .. | .tAdc .. | .tSbc .. | .tRor .. | .tTst .. | .tNeg .. | .tCmp .. | .tCmn .. | .tOrr ..
  | .tMul .. | .tBic .. | .tMvn .. | .tAddHi .. | .tCmpHi .. | .tMovHi .. | .tBx .. | .tLdrPc ..
  | .tStrReg .. | .tStrbReg .. | .tLdrReg .. | .tLdrbReg .. | .tStrhReg .. | .tLdrhReg .. | .tLdsbReg ..
  | .tLdshReg .. | .tStrImm .. | .tLdrImm .. | .tStrbImm .. | .tLdrbImm .. | .tStrhImm .. | .tLdrhImm ..
  | .tStrSp .. | .tLdrSp .. | .tAddPc .. | .tAddSp .. | .tAddSpImm .. | .tSubSpImm .. | .tPush .. | .tPop ..
  | .tStmia .. | .tLdmia .. | .tSwi .. | .tUndefDE .. | .tB .. | .tUndefE8 ..
  | .tBlPrefix .. | .tBlSuffix .. => true

end Sys2Proof
end

