-- ==== Sys2Proof/Decode.lean ====
section
/-! DEFINITION. The two decoders (R127, R132 of 30_encoding.md), total on words, and the encoder of the same tables
(R113 to R125, R129 to R131). Bits the decoder ignores are encoded as the canonical layouts give them. -/

namespace Sys2Proof

/-! ## Fields -/

/-- `v[lo+len-1:lo]` (R8 of 00_scope.md). -/
abbrev fld {n : Nat} (v : BitVec n) (lo len : Nat) : BitVec len := v.extractLsb' lo len

/-- The word of width `n` that holds `x` at bit `lo` and 0 elsewhere. -/
def place (n lo : Nat) {k : Nat} (x : BitVec k) : BitVec n := x.setWidth n <<< lo

/-- One bit at position `i` of a word of width `n`. -/
def placeBit (n i : Nat) (b : Bool) : BitVec n := place n i (BitVec.ofBool b)

/-- The code of a condition (R111). -/
def Cond.code : Cond → BitVec 4
  | .eq => 0x0 | .ne => 0x1 | .cs => 0x2 | .cc => 0x3 | .mi => 0x4 | .pl => 0x5 | .vs => 0x6 | .vc => 0x7
  | .hi => 0x8 | .ls => 0x9 | .ge => 0xA | .lt => 0xB | .gt => 0xC | .le => 0xD | .al => 0xE | .nv => 0xF

/-- The condition of a code (R111). -/
def Cond.ofCode (v : BitVec 4) : Cond :=
  match v.toNat with
  | 0 => .eq | 1 => .ne | 2 => .cs | 3 => .cc | 4 => .mi | 5 => .pl | 6 => .vs | 7 => .vc
  | 8 => .hi | 9 => .ls | 10 => .ge | 11 => .lt | 12 => .gt | 13 => .le | 14 => .al | _ => .nv

/-- The code of a shift type (R115). -/
def ShiftType.code : ShiftType → BitVec 2
  | .lsl => 0 | .lsr => 1 | .asr => 2 | .ror => 3

/-- The shift type of a code (R115). -/
def ShiftType.ofCode (v : BitVec 2) : ShiftType :=
  match v.toNat with
  | 0 => .lsl | 1 => .lsr | 2 => .asr | _ => .ror

/-! ## ARM decoder -/

/-- Operand 2 of a data-processing word (R114, R115). -/
def decodeOperand2 (w : Word) : Operand2 :=
  if w.getLsbD 25 then .imm (fld w 8 4) (fld w 0 8)
  else if w.getLsbD 4 then .shiftReg (fld w 0 4) (.ofCode (fld w 5 2)) (fld w 8 4)
  else .shiftImm (fld w 0 4) (.ofCode (fld w 5 2)) (fld w 7 5)

/-- The offset of a single-data-transfer word (R118). -/
def decodeSdtOffset (w : Word) : SdtOffset :=
  if w.getLsbD 25 then .reg (fld w 0 4) (.ofCode (fld w 5 2)) (fld w 7 5)
  else .imm (fld w 0 12)

/-- The offset of a halfword-transfer word: the 8-bit immediate is `off_hi ++ off_lo` (R119). -/
def decodeHsdtOffset (w : Word) : HsdtOffset :=
  if w.getLsbD 22 then .imm (fld w 8 4 ++ fld w 0 4) else .reg (fld w 0 4)

/-- The source of an MSR word (R116). -/
def decodeMsrOperand (w : Word) : MsrOperand :=
  if w.getLsbD 25 then .imm (fld w 8 4) (fld w 0 8) else .reg (fld w 0 4)

/-- The multiplies of test 2 (R117, R127). -/
def decodeMul (c : Cond) (w : Word) : Instr :=
  let sf := w.getLsbD 20
  if w.getLsbD 21 then .mla c sf (fld w 16 4) (fld w 12 4) (fld w 8 4) (fld w 0 4)
  else .mul c sf (fld w 16 4) (fld w 8 4) (fld w 0 4)

/-- The long multiplies of test 3 (R117, R127). -/
def decodeMull (c : Cond) (w : Word) : Instr :=
  let sf := w.getLsbD 20
  match w.getLsbD 22, w.getLsbD 21 with
  | false, false => .umull c sf (fld w 16 4) (fld w 12 4) (fld w 8 4) (fld w 0 4)
  | false, true  => .umlal c sf (fld w 16 4) (fld w 12 4) (fld w 8 4) (fld w 0 4)
  | true,  false => .smull c sf (fld w 16 4) (fld w 12 4) (fld w 8 4) (fld w 0 4)
  | true,  true  => .smlal c sf (fld w 16 4) (fld w 12 4) (fld w 8 4) (fld w 0 4)

/-- The halfword format of test 5: L, S, H select the instruction; `S H` is not 00 here (R119, R127). -/
def decodeHsdt (c : Cond) (w : Word) : Instr :=
  let p := w.getLsbD 24
  let u := w.getLsbD 23
  let wb := w.getLsbD 21
  let rn : Reg := fld w 16 4
  let rd : Reg := fld w 12 4
  match w.getLsbD 20, w.getLsbD 6, w.getLsbD 5 with
  | false, false, _    => .strh c p u wb rn rd (decodeHsdtOffset w)
  | false, true, _     => .undefHalf c (fld w 0 28)
  | true, false, _     => .ldrh c p u wb rn rd (decodeHsdtOffset w)
  | true, true, false  => .ldrsb c p u wb rn rd (decodeHsdtOffset w)
  | true, true, true   => .ldrsh c p u wb rn rd (decodeHsdtOffset w)

/-- A data-processing word of test 7, by opcode w[24:21] (R113, R127). -/
def decodeDp (c : Cond) (w : Word) : Instr :=
  let sf := w.getLsbD 20
  let rn : Reg := fld w 16 4
  let rd : Reg := fld w 12 4
  let o := decodeOperand2 w
  match (fld w 21 4).toNat with
  | 0 => .and c sf rn rd o
  | 1 => .eor c sf rn rd o
  | 2 => .sub c sf rn rd o
  | 3 => .rsb c sf rn rd o
  | 4 => .add c sf rn rd o
  | 5 => .adc c sf rn rd o
  | 6 => .sbc c sf rn rd o
  | 7 => .rsc c sf rn rd o
  | 8 => .tst c rn o
  | 9 => .teq c rn o
  | 10 => .cmp c rn o
  | 11 => .cmn c rn o
  | 12 => .orr c sf rn rd o
  | 13 => .mov c sf rd o
  | 14 => .bic c sf rn rd o
  | _ => .mvn c sf rd o

/-- Test 7: with w[20] = 0 and w[24:23] = 0b10 a status-register transfer, else data processing (R116, R127). -/
def decodeDpOrPsr (c : Cond) (w : Word) : Instr :=
  if !w.getLsbD 20 && w.getLsbD 24 && !w.getLsbD 23 then
    if w.getLsbD 21 then .msr c (w.getLsbD 22) (fld w 16 4) (decodeMsrOperand w)
    else .mrs c (w.getLsbD 22) (fld w 12 4)
  else decodeDp c w

/-- Test 9: the single data transfers; P = 0 with W = 1 are the user-mode rows (R118, R127, R255). -/
def decodeSdt (c : Cond) (w : Word) : Instr :=
  let p := w.getLsbD 24
  let u := w.getLsbD 23
  let wb := w.getLsbD 21
  let rn : Reg := fld w 16 4
  let rd : Reg := fld w 12 4
  let off := decodeSdtOffset w
  match !p && wb, w.getLsbD 20, w.getLsbD 22 with
  | false, false, false => .str c p u wb rn rd off
  | false, false, true  => .strb c p u wb rn rd off
  | false, true,  false => .ldr c p u wb rn rd off
  | false, true,  true  => .ldrb c p u wb rn rd off
  | true,  false, false => .strt c u rn rd off
  | true,  false, true  => .strbt c u rn rd off
  | true,  true,  false => .ldrt c u rn rd off
  | true,  true,  true  => .ldrbt c u rn rd off

/-- Test 10: the block transfers (R120, R127). -/
def decodeBdt (c : Cond) (w : Word) : Instr :=
  let p := w.getLsbD 24
  let u := w.getLsbD 23
  let sb := w.getLsbD 22
  let wb := w.getLsbD 21
  if w.getLsbD 20 then .ldm c p u sb wb (fld w 16 4) (fld w 0 16)
  else .stm c p u sb wb (fld w 16 4) (fld w 0 16)

/-- Test 12: the coprocessor transfers (R125, R127). -/
def decodeCdt (c : Cond) (w : Word) : Instr :=
  let p := w.getLsbD 24
  let u := w.getLsbD 23
  let n := w.getLsbD 22
  let wb := w.getLsbD 21
  if w.getLsbD 20 then .ldc c p u n wb (fld w 16 4) (fld w 12 4) (fld w 8 4) (fld w 0 8)
  else .stc c p u n wb (fld w 16 4) (fld w 12 4) (fld w 8 4) (fld w 0 8)

/-- Test 14: the coprocessor register transfers (R125, R127). -/
def decodeCrt (c : Cond) (w : Word) : Instr :=
  if w.getLsbD 20 then .mrc c (fld w 21 3) (fld w 16 4) (fld w 12 4) (fld w 8 4) (fld w 5 3) (fld w 0 4)
  else .mcr c (fld w 21 3) (fld w 16 4) (fld w 12 4) (fld w 8 4) (fld w 5 3) (fld w 0 4)

/-- DecodeARM: the first of the fifteen tests of R127 that holds. Test 15 is what the others leave. -/
def decodeArm (w : Word) : Instr :=
  let c := Cond.ofCode (fld w 28 4)
  if w &&& 0x0FFFFFF0#32 = 0x012FFF10#32 then .bx c (fld w 0 4)
  else if w &&& 0x0FC000F0#32 = 0x00000090#32 then decodeMul c w
  else if w &&& 0x0F8000F0#32 = 0x00800090#32 then decodeMull c w
  else if w &&& 0x0FB00FF0#32 = 0x01000090#32 then
    if w.getLsbD 22 then .swpb c (fld w 16 4) (fld w 12 4) (fld w 0 4)
    else .swp c (fld w 16 4) (fld w 12 4) (fld w 0 4)
  else if w &&& 0x0E000090#32 = 0x00000090#32 ∧ fld w 5 2 ≠ 0#2 then decodeHsdt c w
  else if w &&& 0x0E000090#32 = 0x00000090#32 then .undefMul c (fld w 0 28)
  else if w &&& 0x0C000000#32 = 0x00000000#32 then decodeDpOrPsr c w
  else if w &&& 0x0E000010#32 = 0x06000010#32 then .undefMedia c (fld w 0 28)
  else if w &&& 0x0C000000#32 = 0x04000000#32 then decodeSdt c w
  else if w &&& 0x0E000000#32 = 0x08000000#32 then decodeBdt c w
  else if w &&& 0x0E000000#32 = 0x0A000000#32 then
    if w.getLsbD 24 then .bl c (fld w 0 24) else .b c (fld w 0 24)
  else if w &&& 0x0E000000#32 = 0x0C000000#32 then decodeCdt c w
  else if w &&& 0x0F000010#32 = 0x0E000000#32 then
    .cdp c (fld w 20 4) (fld w 16 4) (fld w 12 4) (fld w 8 4) (fld w 5 3) (fld w 0 4)
  else if w &&& 0x0F000010#32 = 0x0E000010#32 then decodeCrt c w
  else .swi c (fld w 0 24)

/-! ## THUMB decoder -/

/-- Format 2 (R129). -/
def decodeT2 (h : Half) : Instr :=
  match h.getLsbD 10, h.getLsbD 9 with
  | false, false => .tAddReg (fld h 6 3) (fld h 3 3) (fld h 0 3)
  | false, true  => .tSubReg (fld h 6 3) (fld h 3 3) (fld h 0 3)
  | true,  false => .tAddImm3 (fld h 6 3) (fld h 3 3) (fld h 0 3)
  | true,  true  => .tSubImm3 (fld h 6 3) (fld h 3 3) (fld h 0 3)

/-- Format 1; op = 3 is format 2 (R129). -/
def decodeT1 (h : Half) : Instr :=
  match h.getLsbD 12, h.getLsbD 11 with
  | false, false => .tLslImm (fld h 6 5) (fld h 3 3) (fld h 0 3)
  | false, true  => .tLsrImm (fld h 6 5) (fld h 3 3) (fld h 0 3)
  | true,  _     => .tAsrImm (fld h 6 5) (fld h 3 3) (fld h 0 3)

/-- Format 3 (R129). -/
def decodeT3 (h : Half) : Instr :=
  match h.getLsbD 12, h.getLsbD 11 with
  | false, false => .tMovImm (fld h 8 3) (fld h 0 8)
  | false, true  => .tCmpImm (fld h 8 3) (fld h 0 8)
  | true,  false => .tAddImm8 (fld h 8 3) (fld h 0 8)
  | true,  true  => .tSubImm8 (fld h 8 3) (fld h 0 8)

/-- Format 4, by op = h[9:6] (R129). -/
def decodeT4 (h : Half) : Instr :=
  let rs : LowReg := fld h 3 3
  let rd : LowReg := fld h 0 3
  match (fld h 6 4).toNat with
  | 0 => .tAnd rs rd
  | 1 => .tEor rs rd
  | 2 => .tLsl rs rd
  | 3 => .tLsr rs rd
  | 4 => .tAsr rs rd
  | 5 => .tAdc rs rd
  | 6 => .tSbc rs rd
  | 7 => .tRor rs rd
  | 8 => .tTst rs rd
  | 9 => .tNeg rs rd
  | 10 => .tCmp rs rd
  | 11 => .tCmn rs rd
  | 12 => .tOrr rs rd
  | 13 => .tMul rs rd
  | 14 => .tBic rs rd
  | _ => .tMvn rs rd

/-- Format 5: Rd = H1 ++ h[2:0], Rs = H2 ++ h[5:3]; H2 is bit 6, so Rs is h[6:3] (R129). -/
def decodeT5 (h : Half) : Instr :=
  let rs : Reg := fld h 3 4
  let rd : Reg := fld h 7 1 ++ fld h 0 3
  match h.getLsbD 9, h.getLsbD 8 with
  | false, false => .tAddHi rs rd
  | false, true  => .tCmpHi rs rd
  | true,  false => .tMovHi rs rd
  | true,  true  => .tBx rs

/-- Format 7, by L and B (R130). -/
def decodeT7 (h : Half) : Instr :=
  match h.getLsbD 11, h.getLsbD 10 with
  | false, false => .tStrReg (fld h 6 3) (fld h 3 3) (fld h 0 3)
  | false, true  => .tStrbReg (fld h 6 3) (fld h 3 3) (fld h 0 3)
  | true,  false => .tLdrReg (fld h 6 3) (fld h 3 3) (fld h 0 3)
  | true,  true  => .tLdrbReg (fld h 6 3) (fld h 3 3) (fld h 0 3)

/-- Format 8, by S (bit 10) and H (bit 11) (R130). -/
def decodeT8 (h : Half) : Instr :=
  match h.getLsbD 10, h.getLsbD 11 with
  | false, false => .tStrhReg (fld h 6 3) (fld h 3 3) (fld h 0 3)
  | false, true  => .tLdrhReg (fld h 6 3) (fld h 3 3) (fld h 0 3)
  | true,  false => .tLdsbReg (fld h 6 3) (fld h 3 3) (fld h 0 3)
  | true,  true  => .tLdshReg (fld h 6 3) (fld h 3 3) (fld h 0 3)

/-- Format 9, by B and L (R130). -/
def decodeT9 (h : Half) : Instr :=
  match h.getLsbD 12, h.getLsbD 11 with
  | false, false => .tStrImm (fld h 6 5) (fld h 3 3) (fld h 0 3)
  | false, true  => .tLdrImm (fld h 6 5) (fld h 3 3) (fld h 0 3)
  | true,  false => .tStrbImm (fld h 6 5) (fld h 3 3) (fld h 0 3)
  | true,  true  => .tLdrbImm (fld h 6 5) (fld h 3 3) (fld h 0 3)

/-- DecodeTHUMB: the first of the twenty-two tests of R132 that holds. Test 22 is what the others leave. -/
def decodeThumb (h : Half) : Instr :=
  if h &&& 0xF800#16 = 0x1800#16 then decodeT2 h
  else if h &&& 0xE000#16 = 0x0000#16 then decodeT1 h
  else if h &&& 0xE000#16 = 0x2000#16 then decodeT3 h
  else if h &&& 0xFC00#16 = 0x4000#16 then decodeT4 h
  else if h &&& 0xFC00#16 = 0x4400#16 then decodeT5 h
  else if h &&& 0xF800#16 = 0x4800#16 then .tLdrPc (fld h 8 3) (fld h 0 8)
  else if h &&& 0xF200#16 = 0x5000#16 then decodeT7 h
  else if h &&& 0xF200#16 = 0x5200#16 then decodeT8 h
  else if h &&& 0xE000#16 = 0x6000#16 then decodeT9 h
  else if h &&& 0xF000#16 = 0x8000#16 then
    if h.getLsbD 11 then .tLdrhImm (fld h 6 5) (fld h 3 3) (fld h 0 3)
    else .tStrhImm (fld h 6 5) (fld h 3 3) (fld h 0 3)
  else if h &&& 0xF000#16 = 0x9000#16 then
    if h.getLsbD 11 then .tLdrSp (fld h 8 3) (fld h 0 8) else .tStrSp (fld h 8 3) (fld h 0 8)
  else if h &&& 0xF000#16 = 0xA000#16 then
    if h.getLsbD 11 then .tAddSp (fld h 8 3) (fld h 0 8) else .tAddPc (fld h 8 3) (fld h 0 8)
  else if h &&& 0xFF00#16 = 0xB000#16 then
    if h.getLsbD 7 then .tSubSpImm (fld h 0 7) else .tAddSpImm (fld h 0 7)
  else if h &&& 0xF600#16 = 0xB400#16 then
    if h.getLsbD 11 then .tPop (h.getLsbD 8) (fld h 0 8) else .tPush (h.getLsbD 8) (fld h 0 8)
  else if h &&& 0xF000#16 = 0xB000#16 then .tUndefB (fld h 0 12)
  else if h &&& 0xF000#16 = 0xC000#16 then
    if h.getLsbD 11 then .tLdmia (fld h 8 3) (fld h 0 8) else .tStmia (fld h 8 3) (fld h 0 8)
  else if h &&& 0xFF00#16 = 0xDF00#16 then .tSwi (fld h 0 8)
  else if h &&& 0xFF00#16 = 0xDE00#16 then .tUndefDE (fld h 0 8)
  else if h &&& 0xF000#16 = 0xD000#16 then .tBcond (.ofCode (fld h 8 4)) (fld h 0 8)
  else if h &&& 0xF800#16 = 0xE000#16 then .tB (fld h 0 11)
  else if h &&& 0xF800#16 = 0xE800#16 then .tUndefE8 (fld h 0 11)
  else if h.getLsbD 11 then .tBlSuffix (fld h 0 11) else .tBlPrefix (fld h 0 11)

/-! ## Bytes -/

/-- Why a list of bytes is no instruction: there are fewer of them than the state's instruction size (R110). Words are
never refused, since both decoders are total (R127, R132). -/
inductive DecodeError where
  | tooShort (have_ need : Nat)
  deriving DecidableEq, Repr

/-- The instruction at the head of a list of bytes in the state `thumb`, little-endian (R71 of 20_memory.md), with the rest. -/
def decode (thumb : Bool) : List Byte → Except DecodeError (Instr × List Byte)
  | b0 :: b1 :: rest =>
    if thumb then .ok (decodeThumb (b1 ++ b0), rest)
    else match rest with
      | b2 :: b3 :: rest' => .ok (decodeArm (b3 ++ b2 ++ b1 ++ b0), rest')
      | [_] => .error (.tooShort 3 4)
      | [] => .error (.tooShort 2 4)
  | [_] => .error (.tooShort 1 (if thumb then 2 else 4))
  | [] => .error (.tooShort 0 (if thumb then 2 else 4))

/-- The instruction the decoder reads from a row's bits, numbered as opcode_table.json numbers them: a THUMB halfword
for rows of 16 bits, an ARM word for rows of 32; the bytes are laid out as the hardware stores them. -/
def decodeTableWord (nbits w : Nat) : Option Instr :=
  let byte := fun (k : Nat) => BitVec.ofNat 8 (w / 2 ^ (8 * k))
  if nbits ≤ 16 then
    match decode true [byte 0, byte 1] with
    | .ok (i, _) => some i
    | .error _ => none
  else if nbits ≤ 32 then
    match decode false [byte 0, byte 1, byte 2, byte 3] with
    | .ok (i, _) => some i
    | .error _ => none
  else none

/-! ## Encoder -/

/-- The word of an instruction. -/
inductive Encoded where
  | arm (w : Word)
  | thumb (h : Half)
  deriving DecidableEq, Repr

/-- The bytes of an encoded instruction, lowest address first (R71). -/
def Encoded.bytes : Encoded → List Byte
  | .arm w => [fld w 0 8, fld w 8 8, fld w 16 8, fld w 24 8]
  | .thumb h => [fld h 0 8, fld h 8 8]

/-- The instruction of an encoded word. -/
def Encoded.decode : Encoded → Instr
  | .arm w => decodeArm w
  | .thumb h => decodeThumb h

/-- Operand 2 and the I bit (R114, R115). -/
def encodeOperand2 : Operand2 → Word
  | .imm rot v => placeBit 32 25 true ||| place 32 8 rot ||| place 32 0 v
  | .shiftImm rm ty n => place 32 7 n ||| place 32 5 ty.code ||| place 32 0 rm
  | .shiftReg rm ty rs => place 32 8 rs ||| place 32 5 ty.code ||| placeBit 32 4 true ||| place 32 0 rm

/-- The offset and the I bit of a single data transfer (R118). -/
def encodeSdtOffset : SdtOffset → Word
  | .imm v => place 32 0 v
  | .reg rm ty n => placeBit 32 25 true ||| place 32 7 n ||| place 32 5 ty.code ||| place 32 0 rm

/-- The offset and the I bit of a halfword transfer (R119). -/
def encodeHsdtOffset : HsdtOffset → Word
  | .imm v => placeBit 32 22 true ||| place 32 8 (fld v 4 4) ||| place 32 0 (fld v 0 4)
  | .reg rm => place 32 0 rm

/-- The source and the I bit of MSR (R116). -/
def encodeMsrOperand : MsrOperand → Word
  | .imm rot v => placeBit 32 25 true ||| place 32 8 rot ||| place 32 0 v
  | .reg rm => place 32 0 rm

/-- Format ARM-DP (R113). -/
def encodeDp (c : Cond) (opcode : BitVec 4) (sf : Bool) (rn rd : Reg) (o : Operand2) : Word :=
  place 32 28 c.code ||| place 32 21 opcode ||| placeBit 32 20 sf ||| place 32 16 rn ||| place 32 12 rd |||
    encodeOperand2 o

/-- Format ARM-MUL (R117). -/
def encodeMul (c : Cond) (a sf : Bool) (rd rn rs rm : Reg) : Word :=
  place 32 28 c.code ||| placeBit 32 21 a ||| placeBit 32 20 sf ||| place 32 16 rd ||| place 32 12 rn |||
    place 32 8 rs ||| place 32 4 0x9#4 ||| place 32 0 rm

/-- Format ARM-MULL (R117). -/
def encodeMull (c : Cond) (u a sf : Bool) (rdHi rdLo rs rm : Reg) : Word :=
  place 32 28 c.code ||| placeBit 32 23 true ||| placeBit 32 22 u ||| placeBit 32 21 a ||| placeBit 32 20 sf |||
    place 32 16 rdHi ||| place 32 12 rdLo ||| place 32 8 rs ||| place 32 4 0x9#4 ||| place 32 0 rm

/-- Format ARM-SWP (R121). -/
def encodeSwp (c : Cond) (b : Bool) (rn rd rm : Reg) : Word :=
  place 32 28 c.code ||| placeBit 32 24 true ||| placeBit 32 22 b ||| place 32 16 rn ||| place 32 12 rd |||
    place 32 4 0x9#4 ||| place 32 0 rm

/-- Format ARM-HSDT (R119). -/
def encodeHsdt (c : Cond) (l sgn hw p u w : Bool) (rn rd : Reg) (off : HsdtOffset) : Word :=
  place 32 28 c.code ||| placeBit 32 24 p ||| placeBit 32 23 u ||| placeBit 32 21 w ||| placeBit 32 20 l |||
    place 32 16 rn ||| place 32 12 rd ||| placeBit 32 7 true ||| placeBit 32 6 sgn ||| placeBit 32 5 hw |||
    placeBit 32 4 true ||| encodeHsdtOffset off

/-- Format ARM-SDT (R118). -/
def encodeSdt (c : Cond) (l b p u w : Bool) (rn rd : Reg) (off : SdtOffset) : Word :=
  place 32 28 c.code ||| placeBit 32 26 true ||| placeBit 32 24 p ||| placeBit 32 23 u ||| placeBit 32 22 b |||
    placeBit 32 21 w ||| placeBit 32 20 l ||| place 32 16 rn ||| place 32 12 rd ||| encodeSdtOffset off

/-- Format ARM-BDT (R120). -/
def encodeBdt (c : Cond) (l p u sb w : Bool) (rn : Reg) (list : BitVec 16) : Word :=
  place 32 28 c.code ||| placeBit 32 27 true ||| placeBit 32 24 p ||| placeBit 32 23 u ||| placeBit 32 22 sb |||
    placeBit 32 21 w ||| placeBit 32 20 l ||| place 32 16 rn ||| place 32 0 list

/-- Format ARM-B (R122). -/
def encodeB (c : Cond) (l : Bool) (off : BitVec 24) : Word :=
  place 32 28 c.code ||| place 32 25 0x5#3 ||| placeBit 32 24 l ||| place 32 0 off

/-- Format ARM-CDT (R125). -/
def encodeCdt (c : Cond) (l p u n w : Bool) (rn crd cpn : BitVec 4) (off : BitVec 8) : Word :=
  place 32 28 c.code ||| place 32 25 0x6#3 ||| placeBit 32 24 p ||| placeBit 32 23 u ||| placeBit 32 22 n |||
    placeBit 32 21 w ||| placeBit 32 20 l ||| place 32 16 rn ||| place 32 12 crd ||| place 32 8 cpn ||| place 32 0 off

/-- Format ARM-CRT (R125). -/
def encodeCrt (c : Cond) (l : Bool) (opc : BitVec 3) (crn rd cpn : BitVec 4) (cp : BitVec 3) (crm : BitVec 4) : Word :=
  place 32 28 c.code ||| place 32 24 0xE#4 ||| place 32 21 opc ||| placeBit 32 20 l ||| place 32 16 crn |||
    place 32 12 rd ||| place 32 8 cpn ||| place 32 5 cp ||| placeBit 32 4 true ||| place 32 0 crm

/-- A THUMB halfword of formats 1, 2, 7, 8, 9, 10: a head, then Rs or Rb, then Rd (R129, R130). -/
def encodeT3Reg (head : BitVec 5) (x : BitVec 5) (rs rd : LowReg) : Half :=
  place 16 11 head ||| place 16 6 x ||| place 16 3 rs ||| place 16 0 rd

/-- A THUMB halfword with a register in 10:8 and a byte in 7:0: formats 3, 6, 11, 12, 15 (R129 to R131). -/
def encodeTRegByte (head : BitVec 5) (rd : LowReg) (x : BitVec 8) : Half :=
  place 16 11 head ||| place 16 8 rd ||| place 16 0 x

/-- A THUMB halfword with two 3-bit fields after a 7-bit head: formats 2, 7, 8 (R129, R130). -/
def encodeT3Low (head : BitVec 7) (x rs rd : LowReg) : Half :=
  place 16 9 head ||| place 16 6 x ||| place 16 3 rs ||| place 16 0 rd

/-- Format 4 (R129). -/
def encodeT4 (op : BitVec 4) (rs rd : LowReg) : Half :=
  place 16 10 0x10#6 ||| place 16 6 op ||| place 16 3 rs ||| place 16 0 rd

/-- Format 5 (R129). -/
def encodeT5 (op : BitVec 2) (rs rd : Reg) : Half :=
  place 16 10 0x11#6 ||| place 16 8 op ||| place 16 7 (fld rd 3 1) ||| place 16 3 rs ||| place 16 0 (fld rd 0 3)

/-- The word of an instruction, from the layouts of R113 to R125 and R129 to R131. -/
def encode : Instr → Encoded
  | .bx c rn => .arm (place 32 28 c.code ||| place 32 4 0x12FFF1#24 ||| place 32 0 rn)
  | .mul c sf rd rs rm => .arm (encodeMul c false sf rd 0 rs rm)
  | .mla c sf rd rn rs rm => .arm (encodeMul c true sf rd rn rs rm)
  | .umull c sf rdHi rdLo rs rm => .arm (encodeMull c false false sf rdHi rdLo rs rm)
  | .umlal c sf rdHi rdLo rs rm => .arm (encodeMull c false true sf rdHi rdLo rs rm)
  | .smull c sf rdHi rdLo rs rm => .arm (encodeMull c true false sf rdHi rdLo rs rm)
  | .smlal c sf rdHi rdLo rs rm => .arm (encodeMull c true true sf rdHi rdLo rs rm)
  | .swp c rn rd rm => .arm (encodeSwp c false rn rd rm)
  | .swpb c rn rd rm => .arm (encodeSwp c true rn rd rm)
  | .strh c p u w rn rd off => .arm (encodeHsdt c false false true p u w rn rd off)
  | .ldrh c p u w rn rd off => .arm (encodeHsdt c true false true p u w rn rd off)
  | .ldrsb c p u w rn rd off => .arm (encodeHsdt c true true false p u w rn rd off)
  | .ldrsh c p u w rn rd off => .arm (encodeHsdt c true true true p u w rn rd off)
  | .undefHalf c raw => .arm (place 32 28 c.code ||| place 32 0 raw)
  | .undefMul c raw => .arm (place 32 28 c.code ||| place 32 0 raw)
  | .mrs c spsr rd =>
    .arm (place 32 28 c.code ||| placeBit 32 24 true ||| placeBit 32 22 spsr ||| place 32 16 0xF#4 ||| place 32 12 rd)
  | .msr c spsr mask src =>
    .arm (place 32 28 c.code ||| placeBit 32 24 true ||| placeBit 32 22 spsr ||| placeBit 32 21 true |||
      place 32 16 mask ||| place 32 12 0xF#4 ||| encodeMsrOperand src)
  | .and c sf rn rd o => .arm (encodeDp c 0x0 sf rn rd o)
  | .eor c sf rn rd o => .arm (encodeDp c 0x1 sf rn rd o)
  | .sub c sf rn rd o => .arm (encodeDp c 0x2 sf rn rd o)
  | .rsb c sf rn rd o => .arm (encodeDp c 0x3 sf rn rd o)
  | .add c sf rn rd o => .arm (encodeDp c 0x4 sf rn rd o)
  | .adc c sf rn rd o => .arm (encodeDp c 0x5 sf rn rd o)
  | .sbc c sf rn rd o => .arm (encodeDp c 0x6 sf rn rd o)
  | .rsc c sf rn rd o => .arm (encodeDp c 0x7 sf rn rd o)
  | .tst c rn o => .arm (encodeDp c 0x8 true rn 0 o)
  | .teq c rn o => .arm (encodeDp c 0x9 true rn 0 o)
  | .cmp c rn o => .arm (encodeDp c 0xA true rn 0 o)
  | .cmn c rn o => .arm (encodeDp c 0xB true rn 0 o)
  | .orr c sf rn rd o => .arm (encodeDp c 0xC sf rn rd o)
  | .mov c sf rd o => .arm (encodeDp c 0xD sf 0 rd o)
  | .bic c sf rn rd o => .arm (encodeDp c 0xE sf rn rd o)
  | .mvn c sf rd o => .arm (encodeDp c 0xF sf 0 rd o)
  | .undefMedia c raw => .arm (place 32 28 c.code ||| place 32 0 raw)
  | .str c p u w rn rd off => .arm (encodeSdt c false false p u w rn rd off)
  | .ldr c p u w rn rd off => .arm (encodeSdt c true false p u w rn rd off)
  | .strb c p u w rn rd off => .arm (encodeSdt c false true p u w rn rd off)
  | .ldrb c p u w rn rd off => .arm (encodeSdt c true true p u w rn rd off)
  | .strt c u rn rd off => .arm (encodeSdt c false false false u true rn rd off)
  | .ldrt c u rn rd off => .arm (encodeSdt c true false false u true rn rd off)
  | .strbt c u rn rd off => .arm (encodeSdt c false true false u true rn rd off)
  | .ldrbt c u rn rd off => .arm (encodeSdt c true true false u true rn rd off)
  | .stm c p u sb w rn list => .arm (encodeBdt c false p u sb w rn list)
  | .ldm c p u sb w rn list => .arm (encodeBdt c true p u sb w rn list)
  | .b c off => .arm (encodeB c false off)
  | .bl c off => .arm (encodeB c true off)
  | .stc c p u n w rn crd cpn off => .arm (encodeCdt c false p u n w rn crd cpn off)
  | .ldc c p u n w rn crd cpn off => .arm (encodeCdt c true p u n w rn crd cpn off)
  | .cdp c opc crn crd cpn cp crm =>
    .arm (place 32 28 c.code ||| place 32 24 0xE#4 ||| place 32 20 opc ||| place 32 16 crn ||| place 32 12 crd |||
      place 32 8 cpn ||| place 32 5 cp ||| place 32 0 crm)
  | .mcr c opc crn rd cpn cp crm => .arm (encodeCrt c false opc crn rd cpn cp crm)
  | .mrc c opc crn rd cpn cp crm => .arm (encodeCrt c true opc crn rd cpn cp crm)
  | .swi c comment => .arm (place 32 28 c.code ||| place 32 24 0xF#4 ||| place 32 0 comment)
  | .tAddReg rn rs rd => .thumb (encodeT3Low 0x0C#7 rn rs rd)
  | .tSubReg rn rs rd => .thumb (encodeT3Low 0x0D#7 rn rs rd)
  | .tAddImm3 imm rs rd => .thumb (encodeT3Low 0x0E#7 imm rs rd)
  | .tSubImm3 imm rs rd => .thumb (encodeT3Low 0x0F#7 imm rs rd)
  | .tLslImm imm rs rd => .thumb (encodeT3Reg 0x00#5 imm rs rd)
  | .tLsrImm imm rs rd => .thumb (encodeT3Reg 0x01#5 imm rs rd)
  | .tAsrImm imm rs rd => .thumb (encodeT3Reg 0x02#5 imm rs rd)
  | .tMovImm rd imm => .thumb (encodeTRegByte 0x04#5 rd imm)
  | .tCmpImm rd imm => .thumb (encodeTRegByte 0x05#5 rd imm)
  | .tAddImm8 rd imm => .thumb (encodeTRegByte 0x06#5 rd imm)
  | .tSubImm8 rd imm => .thumb (encodeTRegByte 0x07#5 rd imm)
  | .tAnd rs rd => .thumb (encodeT4 0x0 rs rd)
  | .tEor rs rd => .thumb (encodeT4 0x1 rs rd)
  | .tLsl rs rd => .thumb (encodeT4 0x2 rs rd)
  | .tLsr rs rd => .thumb (encodeT4 0x3 rs rd)
  | .tAsr rs rd => .thumb (encodeT4 0x4 rs rd)
  | .tAdc rs rd => .thumb (encodeT4 0x5 rs rd)
  | .tSbc rs rd => .thumb (encodeT4 0x6 rs rd)
  | .tRor rs rd => .thumb (encodeT4 0x7 rs rd)
  | .tTst rs rd => .thumb (encodeT4 0x8 rs rd)
  | .tNeg rs rd => .thumb (encodeT4 0x9 rs rd)
  | .tCmp rs rd => .thumb (encodeT4 0xA rs rd)
  | .tCmn rs rd => .thumb (encodeT4 0xB rs rd)
  | .tOrr rs rd => .thumb (encodeT4 0xC rs rd)
  | .tMul rs rd => .thumb (encodeT4 0xD rs rd)
  | .tBic rs rd => .thumb (encodeT4 0xE rs rd)
  | .tMvn rs rd => .thumb (encodeT4 0xF rs rd)
  | .tAddHi rs rd => .thumb (encodeT5 0 rs rd)
  | .tCmpHi rs rd => .thumb (encodeT5 1 rs rd)
  | .tMovHi rs rd => .thumb (encodeT5 2 rs rd)
  | .tBx rs => .thumb (encodeT5 3 rs 0)
  | .tLdrPc rd word8 => .thumb (encodeTRegByte 0x09#5 rd word8)
  | .tStrReg ro rb rd => .thumb (encodeT3Low 0x28#7 ro rb rd)
  | .tStrbReg ro rb rd => .thumb (encodeT3Low 0x2A#7 ro rb rd)
  | .tLdrReg ro rb rd => .thumb (encodeT3Low 0x2C#7 ro rb rd)
  | .tLdrbReg ro rb rd => .thumb (encodeT3Low 0x2E#7 ro rb rd)
  | .tStrhReg ro rb rd => .thumb (encodeT3Low 0x29#7 ro rb rd)
  | .tLdrhReg ro rb rd => .thumb (encodeT3Low 0x2D#7 ro rb rd)
  | .tLdsbReg ro rb rd => .thumb (encodeT3Low 0x2B#7 ro rb rd)
  | .tLdshReg ro rb rd => .thumb (encodeT3Low 0x2F#7 ro rb rd)
  | .tStrImm imm rb rd => .thumb (encodeT3Reg 0x0C#5 imm rb rd)
  | .tLdrImm imm rb rd => .thumb (encodeT3Reg 0x0D#5 imm rb rd)
  | .tStrbImm imm rb rd => .thumb (encodeT3Reg 0x0E#5 imm rb rd)
  | .tLdrbImm imm rb rd => .thumb (encodeT3Reg 0x0F#5 imm rb rd)
  | .tStrhImm imm rb rd => .thumb (encodeT3Reg 0x10#5 imm rb rd)
  | .tLdrhImm imm rb rd => .thumb (encodeT3Reg 0x11#5 imm rb rd)
  | .tStrSp rd word8 => .thumb (encodeTRegByte 0x12#5 rd word8)
  | .tLdrSp rd word8 => .thumb (encodeTRegByte 0x13#5 rd word8)
  | .tAddPc rd word8 => .thumb (encodeTRegByte 0x14#5 rd word8)
  | .tAddSp rd word8 => .thumb (encodeTRegByte 0x15#5 rd word8)
  | .tAddSpImm sword7 => .thumb (place 16 8 0xB0#8 ||| place 16 0 sword7)
  | .tSubSpImm sword7 => .thumb (place 16 8 0xB0#8 ||| placeBit 16 7 true ||| place 16 0 sword7)
  | .tPush lr list => .thumb (place 16 9 0x5A#7 ||| placeBit 16 8 lr ||| place 16 0 list)
  | .tPop pc list => .thumb (place 16 9 0x5E#7 ||| placeBit 16 8 pc ||| place 16 0 list)
  | .tUndefB raw => .thumb (place 16 12 0xB#4 ||| place 16 0 raw)
  | .tStmia rb list => .thumb (encodeTRegByte 0x18#5 rb list)
  | .tLdmia rb list => .thumb (encodeTRegByte 0x19#5 rb list)
  | .tSwi value8 => .thumb (place 16 8 0xDF#8 ||| place 16 0 value8)
  | .tUndefDE raw => .thumb (place 16 8 0xDE#8 ||| place 16 0 raw)
  | .tBcond c off => .thumb (place 16 12 0xD#4 ||| place 16 8 c.code ||| place 16 0 off)
  | .tB off => .thumb (place 16 11 0x1C#5 ||| place 16 0 off)
  | .tUndefE8 raw => .thumb (place 16 11 0x1D#5 ||| place 16 0 raw)
  | .tBlPrefix off => .thumb (place 16 11 0x1E#5 ||| place 16 0 off)
  | .tBlSuffix off => .thumb (place 16 11 0x1F#5 ||| place 16 0 off)

end Sys2Proof
end

