-- ==== Sys2Proof/Config.lean ====
section
/-! DEFINITION. The parameters of the machine (R6 of 00_scope.md) and the one value that comes from outside it. -/

namespace Sys2Proof.Config

/-- The kinds of CPU step that INSTR_CYCLES distinguishes (R6 of 00_scope.md; D5 of 92_eei_decisions.md:
"execute, failed condition, refill, exception entry, halted tick"). -/
inductive StepKind where
  | execute
  | condFailed
  | refill
  | irqEntry
  | halted
  deriving DecidableEq, Repr

/-- "a natural number >= 1" (R6). -/
abbrev PosNat := { n : Nat // 1 ≤ n }

/-- INSTR_CYCLES as a table: the cycles handed to LCD, DMA and timers after a CPU step of each kind, each at least 1
(R6 of 00_scope.md, R540 of 70_reset_and_hazards.md). -/
structure Cycles where
  execute    : PosNat
  condFailed : PosNat
  refill     : PosNat
  irqEntry   : PosNat
  halted     : PosNat
  deriving DecidableEq, Repr

/-- The parameters the model takes (R6 of 00_scope.md). The images are bytes of the memory list, the save device and the key
samples are fields of State. ROM_LEN is at most 0x02000000. -/
structure Params where
  biosPresent   : Bool
  romLen        : Fin 0x02000001
  unusedValue   : Byte
  cycles        : Cycles
  dmaStartDelay : Nat
  deriving DecidableEq, Repr

/-- The defaults of R6 where it recommends one. BIOS_PRESENT and ROM_LEN have none ("none, must be given"):
no BIOS image and an empty ROM are a DESIGN CHOICE (log 1), unsafe where a claim leans on them. -/
def defaultParams : Params :=
  { biosPresent := false, romLen := 0, unusedValue := 0,
    cycles := ⟨⟨1, Nat.le_refl 1⟩, ⟨1, Nat.le_refl 1⟩, ⟨1, Nat.le_refl 1⟩, ⟨1, Nat.le_refl 1⟩, ⟨1, Nat.le_refl 1⟩⟩,
    dmaStartDelay := 2 }

/-- One access to the cartridge save device (R68 of 20_memory.md). -/
inductive SaveEvent where
  | read  (offset : BitVec 16)
  | write (offset : BitVec 16) (value : Byte)
  deriving DecidableEq, Repr

/-- SaveRead of R6 (00_scope.md): the byte the save device answers at an offset, after the accesses listed (newest first).
The device is out of scope (R4), so its answer is a free value: no body, nothing can be proved of it (log 17, safe). -/
opaque saveRead : List SaveEvent → BitVec 16 → Byte

end Sys2Proof.Config
end

