-- ==== Sys2Proof/Machine/State.lean ====
section
/-! DEFINITION. The state of the machine (10_state.md), why a step can stop, and the state after reset
(R521 to R523 of 70_reset_and_hazards.md). -/

namespace Sys2Proof.Machine

/-- A program status register: CPSR or an SPSR. Bits 27:8 of the word read 0 and cannot be written, so they have no field
(R25, R28 of 10_state.md). -/
structure Psr where
  n    : Bool
  z    : Bool
  c    : Bool
  v    : Bool
  i    : Bool
  f    : Bool
  t    : Bool
  mode : BitVec 5
  deriving DecidableEq, Repr

/-- The sub-kinds of an `unpredictable` diagnostic (R45 of 10_state.md). -/
inductive Unpredictable where
  /-- an empty register list (R284) -/
  | emptyList
  /-- an MSR that changes T (R233) -/
  | msrThumb
  /-- an SPSR access in a mode without one (R235) -/
  | spsrAccess
  /-- DMA source control 3 (R468) -/
  | dmaSourceControl
  deriving DecidableEq, Repr

/-- The kinds of diagnostic event (R45 of 10_state.md). -/
inductive DiagKind where
  | unmappedRead
  | unmappedWrite
  | readonlyWrite
  | condReserved
  | coprocessor
  | undefinedEncoding
  | unpredictable (sub : Unpredictable)
  | illegalMode
  | stopNotImplemented
  | dmaSpecialNotImplemented
  deriving DecidableEq, Repr

/-- A diagnostic event `Diag(kind, info)` (R12, R45). -/
structure Diag where
  kind : DiagKind
  info : Word
  deriving DecidableEq, Repr

/-- One call `put_pixel(x, y, rgb15)` (R496 of 60_exceptions.md). -/
structure Pixel where
  x   : Nat
  y   : Nat
  rgb : BitVec 15
  deriving DecidableEq, Repr

/-- A DMA channel: programmed values, latched values, scheduling values (R39 of 10_state.md). -/
structure DmaChannel where
  sad       : Word
  dad       : Word
  cntL      : Half
  cntH      : Half
  curSrc    : Word
  curDst    : Word
  remaining : Nat
  delay     : Nat
  go        : Bool
  deriving DecidableEq, Repr

/-- A timer: reload, counter, control word and prescaler accumulator (R40 of 10_state.md, R480, R481). -/
structure Timer where
  reload  : Half
  counter : Half
  control : Half
  acc     : Nat
  deriving DecidableEq, Repr

/-- The LCD controller (R41 of 10_state.md). Bits 2:0 of `dispstat` are never stored (R493); `vcountMatch` is the flag stored
at a change of scanline (R492). -/
structure Lcd where
  scanline    : Nat
  cycle       : Nat
  vblank      : Bool
  hblank      : Bool
  vcountMatch : Bool
  dispcnt     : Half
  dispstat    : Half
  bgcnt       : Vector Half 4
  bgXofs      : Vector (BitVec 9) 4
  bgYofs      : Vector (BitVec 9) 4
  deriving DecidableEq, Repr

/-- Everything the spec gives the machine. The 30 banked general registers are `gpr` (R0 to R14 usr at 0 to 14, R8 to R14 fiq
at 15 to 21, R13 and R14 of irq, svc, abt, und at 22 to 29); R15 is `r15`. -/
structure State where
  gpr         : Vector Word 30
  r15         : Word
  /-- the write to R15 the executing instruction has recorded (R10 of 00_scope.md); none at every step boundary (log 31) -/
  pcWrite     : Option Word
  cpsr        : Psr
  spsrFiq     : Psr
  spsrIrq     : Psr
  spsrSvc     : Psr
  spsrAbt     : Psr
  spsrUnd     : Psr
  pipeE       : Word
  pipeD       : Word
  pipeF       : Word
  pipeValid   : Bool
  halted      : Bool
  ie          : Half
  iflag       : Half
  ime         : Bool
  dma         : Vector DmaChannel 4
  vblankPulse : Bool
  hblankPulse : Bool
  timers      : Vector Timer 4
  lcd         : Lcd
  keycnt      : Half
  /-- KEY_STATE, 1 = pressed (R42 of 10_state.md) -/
  keyState    : BitVec 10
  /-- the host's key samples to come; empty means no change (log 23) -/
  keyInput    : List (BitVec 10)
  /-- BIOS, RAM, palette, VRAM, OAM and ROM bytes at canonical addresses; an unlisted byte is 0 (log 3) -/
  mem         : List Host.Cell
  /-- SAVE_DEVICE: absent, or the accesses made to it, newest first (log 17) -/
  save        : Option (List Config.SaveEvent)
  params      : Config.Params
  /-- the diagnostic stream, newest first (R45) -/
  diags       : List Diag
  /-- the pixel sink, newest first (R496) -/
  pixels      : List Pixel
  deriving DecidableEq, Repr

/-- Why a step can stop with a fault: nothing. "No rule of this spec stops the machine" (R12), so no constructor is needed. -/
inductive Fault where
  deriving DecidableEq, Repr

/-- Why a step can be refused. -/
inductive Refusal where
  /-- The instruction has no meaning in the model yet. Raised by no arm of this model. Safe. -/
  | notModelled (mnemonic : String)
  deriving DecidableEq, Repr

/-- An all-zero status register (SPSR after reset, R521, R522). -/
def Psr.zero : Psr := ⟨false, false, false, false, false, false, false, 0⟩

/-- A DMA channel after reset (R523). -/
def DmaChannel.reset : DmaChannel := ⟨0, 0, 0, 0, 0, 0, 0, 0, false⟩

/-- A timer after reset (R523). -/
def Timer.reset : Timer := ⟨0, 0, 0, 0⟩

/-- The LCD after reset (R523); `vcountMatch` is 0 by R41 (log 25). -/
def Lcd.reset : Lcd :=
  { scanline := 0, cycle := 0, vblank := false, hblank := false, vcountMatch := false, dispcnt := 0, dispstat := 0,
    bgcnt := .replicate 4 0, bgXofs := .replicate 4 0, bgYofs := .replicate 4 0 }

/-- Whether an address of the memory list belongs to an image: the BIOS image when there is one, the ROM up to its length
(R6, R43). -/
def imageKey (params : Config.Params) (a : Nat) : Bool :=
  (params.biosPresent && decide (a < 0x4000)) || (decide (0x08000000 ≤ a) && decide (a < 0x08000000 + params.romLen.val))

/-- The state after reset of a machine with given parameters, image bytes, save device and key samples: R521 with a BIOS image,
R522 without one, R523 for the rest. Of `images` the bytes of the BIOS and ROM images are taken; RAM is zero (R523). The pipeline
slots are unspecified by R523 and 0 here (DESIGN CHOICE, log 4); they are not used while `pipeValid` is false. -/
def State.resetWith (params : Config.Params) (images : List Host.Cell) (save : Option (List Config.SaveEvent))
    (keys : List (BitVec 10)) : State :=
  { gpr :=
      if params.biosPresent then .replicate 30 0
      else (((Vector.replicate 30 0#32).set 13 0x03007F00#32).set 22 0x03007FA0#32).set 24 0x03007FE0#32
    r15 := if params.biosPresent then 0 else 0x08000000
    pcWrite := none
    cpsr :=
      if params.biosPresent then ⟨false, false, false, false, true, true, false, 0x13⟩
      else ⟨false, false, false, false, false, false, false, 0x1F⟩
    spsrFiq := .zero, spsrIrq := .zero, spsrSvc := .zero, spsrAbt := .zero, spsrUnd := .zero
    pipeE := 0, pipeD := 0, pipeF := 0, pipeValid := false
    halted := false, ie := 0, iflag := 0, ime := false
    dma := .replicate 4 .reset, vblankPulse := false, hblankPulse := false
    timers := .replicate 4 .reset
    lcd := .reset
    keycnt := 0, keyState := 0, keyInput := keys
    mem := images.filter fun cell => imageKey params cell.1
    save := save, params := params, diags := [], pixels := [] }

/-- The machine right after reset, with the parameters of `Config.defaultParams`: no BIOS image, an empty ROM, no save device
and all buttons released (log 1). -/
def State.reset : State := State.resetWith Config.defaultParams [] none []

end Sys2Proof.Machine
end

