-- ==== Sys2Proof/Machine/Ops.lean ====
section
/-! DEFINITION. The named operations on registers, status words, the diagnostic stream and the interrupt controller's request
line; taking an exception, and the return from one beside it. -/

namespace Sys2Proof.Machine

/-! ## Bytes of registers -/

/-- Byte `k` of a 16-bit register. -/
def halfByte (v : Half) (k : Nat) : Byte := v.extractLsb' (8 * k) 8

/-- A 16-bit register with byte `k` replaced (byte 0 for k = 0, byte 1 otherwise). -/
def setHalfByte (v : Half) (k : Nat) (b : Byte) : Half :=
  if k = 0 then v.extractLsb' 8 8 ++ b else b ++ v.extractLsb' 0 8

/-- A 32-bit register with byte `k` of 0..3 replaced. -/
def setWordByte (v : Word) (k : Nat) (b : Byte) : Word :=
  (v &&& ~~~(0xFF#32 <<< (8 * k))) ||| (b.setWidth 32 <<< (8 * k))

/-! ## Modes and banks -/

/-- The register banks (R22 of 10_state.md). -/
inductive Bank where
  | usr | fiq | irq | svc | abt | und
  deriving DecidableEq, Repr

/-- The bank of a mode; usr for usr, sys and every value outside the seven (R23, R30). -/
def bankOf (mode : BitVec 5) : Bank :=
  if mode = 0x11 then .fiq else if mode = 0x12 then .irq else if mode = 0x13 then .svc
  else if mode = 0x17 then .abt else if mode = 0x1B then .und else .usr

/-- The seven modes (R24). -/
def legalMode (mode : BitVec 5) : Bool :=
  mode == 0x10 || mode == 0x11 || mode == 0x12 || mode == 0x13 || mode == 0x17 || mode == 0x1B || mode == 0x1F

/-- usr is the only unprivileged mode; an illegal value counts as privileged (R24, R30, R420). -/
def privileged (mode : BitVec 5) : Bool := mode != 0x10

/-- The place of R13 in `gpr` for each bank (R22). -/
def bankBase : Bank → Nat
  | .usr => 13 | .fiq => 20 | .irq => 22 | .svc => 24 | .abt => 26 | .und => 28

/-- The place in `gpr` of general register `r` (0..14) seen through a bank (R22, R23). -/
def physIndex (bank : Bank) (r : Reg) : Nat :=
  if r.toNat < 8 then r.toNat
  else if r.toNat < 13 then (if bank = .fiq then r.toNat + 7 else r.toNat)
  else if r.toNat = 13 then bankBase bank else bankBase bank + 1

theorem physIndex_lt (bank : Bank) (r : Reg) : physIndex bank r < 30 := by
  have h := r.isLt
  unfold physIndex bankBase
  cases bank <;> (repeat' split) <;> omega

/-! ## General registers (R9, R20, R23) -/

/-- `x[r]` through a given bank; R15 is the same in every bank (R22). -/
def State.readBank (s : State) (bank : Bank) (r : Reg) : Word :=
  if r = 15 then s.r15 else s.gpr[physIndex bank r]'(physIndex_lt bank r)

/-- `x[r] <- v` through a given bank; a write to R15 is recorded and applied at the end of the step (R10, R153). -/
def State.writeBank (s : State) (bank : Bank) (r : Reg) (v : Word) : State :=
  if r = 15 then { s with pcWrite := some v }
  else { s with gpr := s.gpr.set (physIndex bank r) v (physIndex_lt bank r) }

/-- The bank of the current mode (R23). -/
def State.bank (s : State) : Bank := bankOf s.cpsr.mode

/-- `x[r]` (R9, R23). -/
def State.readReg (s : State) (r : Reg) : Word := s.readBank s.bank r

/-- `x[r] <- v` (R9, R23). -/
def State.writeReg (s : State) (r : Reg) (v : Word) : State := s.writeBank s.bank r v

/-- `x_usr[r]` (R9, R283). -/
def State.readUser (s : State) (r : Reg) : Word := s.readBank .usr r

/-- `x_usr[r] <- v` (R9, R283). -/
def State.writeUser (s : State) (r : Reg) (v : Word) : State := s.writeBank .usr r v

/-- A low register as a register number (R310). -/
def low (r : LowReg) : Reg := r.setWidth 4

/-- `pc <- target` (R10). -/
def State.branchTo (s : State) (target : Word) : State := { s with pcWrite := some target }

/-- The instruction size of the current state: 4 in ARM, 2 in THUMB (R13, R110). -/
def State.isz (s : State) : Nat := if s.cpsr.t then 2 else 4

/-- `isz` as an address increment. -/
def State.iszWord (s : State) : Word := if s.cpsr.t then 2 else 4

/-- NextExecAddr (R35). -/
def State.nextExecAddr (s : State) : Word := if s.pipeValid then s.r15 - 2 * s.iszWord else s.r15

/-! ## Status registers (R25, R28) -/

/-- The 32-bit value of a status register: bits 27:8 read 0 (R25). -/
def Psr.toWord (p : Psr) : Word :=
  BitVec.ofBool p.n ++ BitVec.ofBool p.z ++ BitVec.ofBool p.c ++ BitVec.ofBool p.v ++ 0#20 ++
    BitVec.ofBool p.i ++ BitVec.ofBool p.f ++ BitVec.ofBool p.t ++ p.mode

/-- The status register a 32-bit value stores: bits 27:8 are ignored (R25). -/
def Psr.ofWord (w : Word) : Psr :=
  { n := w.getLsbD 31, z := w.getLsbD 30, c := w.getLsbD 29, v := w.getLsbD 28,
    i := w.getLsbD 7, f := w.getLsbD 6, t := w.getLsbD 5, mode := w.extractLsb' 0 5 }

/-- The SPSR of a bank; the usr bank has none (R28). -/
def State.spsrOf (s : State) : Bank → Option Psr
  | .usr => none
  | .fiq => some s.spsrFiq
  | .irq => some s.spsrIrq
  | .svc => some s.spsrSvc
  | .abt => some s.spsrAbt
  | .und => some s.spsrUnd

/-- Write the SPSR of a bank; nothing for the usr bank (R28, R235). -/
def State.setSpsrOf (s : State) (bank : Bank) (p : Psr) : State :=
  match bank with
  | .usr => s
  | .fiq => { s with spsrFiq := p }
  | .irq => { s with spsrIrq := p }
  | .svc => { s with spsrSvc := p }
  | .abt => { s with spsrAbt := p }
  | .und => { s with spsrUnd := p }

/-- Write the CPSR. -/
def State.setCpsr (s : State) (p : Psr) : State := { s with cpsr := p }

/-! ## Diagnostics (R12, R45) -/

/-- `Diag(kind, info)`. -/
def State.emit (s : State) (kind : DiagKind) (info : Word) : State := { s with diags := ⟨kind, info⟩ :: s.diags }

/-- `Diag(kind, w)` with `w` the word of the executing instruction, which stands in pipe.E (R33, R155; log 16). -/
def State.emitHere (s : State) (kind : DiagKind) : State := s.emit kind s.pipeE

/-- The diagnostic of a CPSR write that leaves a mode outside the seven (R30). -/
def State.noteIllegalMode (s : State) : State :=
  if legalMode s.cpsr.mode then s else s.emit .illegalMode (s.cpsr.mode.setWidth 32)

/-! ## Interrupt requests (R441, R445, R451) -/

/-- Halt release: `halted` is cleared whenever an enabled interrupt is pending, whatever IME is (R451). -/
def State.releaseHalt (s : State) : State := if s.iflag &&& s.ie = 0 then s else { s with halted := false }

/-- `request(line)` (R441). -/
def State.request (s : State) (line : Nat) : State :=
  { s with iflag := s.iflag ||| (1#16 <<< line) }.releaseHalt

/-- A request that an enable condition guards. -/
def State.requestIf (s : State) (enabled : Bool) (line : Nat) : State := if enabled then s.request line else s

/-- The IRQ line, combinational (R37, R445). -/
def State.irqLine (s : State) : Bool := s.iflag &&& s.ie != 0 && s.ime

/-! ## Taking an exception and returning from one -/

/-- The two exceptions this hardware takes (R423, R424). -/
inductive Exc where
  | irq | swi
  deriving DecidableEq, Repr

/-- The mode an exception enters (R423). -/
def Exc.mode : Exc → BitVec 5
  | .irq => 0x12 | .swi => 0x13

/-- The bank whose R14 and SPSR an exception writes (R426, R427). -/
def Exc.bank : Exc → Bank
  | .irq => .irq | .swi => .svc

/-- The vector of an exception (R423). -/
def Exc.vector : Exc → Word
  | .irq => 0x00000018 | .swi => 0x00000008

/-- Taking an exception (R426, R427): CPSR goes to the SPSR of the mode entered, the return address to its R14; M is the mode,
T is 0, I is 1, the flags and F stay; pc goes to the vector. -/
def State.takeException (s : State) (e : Exc) (ret : Word) : State :=
  (((s.setCpsr { s.cpsr with mode := e.mode, t := false, i := true }).setSpsrOf e.bank s.cpsr).writeBank e.bank 14 ret).branchTo
    e.vector

/-- The return from an exception: the SPSR of the current mode is copied to the CPSR, all of it (R179, R428). In a mode without
an SPSR the CPSR stays and a diagnostic is emitted (R235; log 7). The caller then performs `pc <- result`. -/
def State.restoreFromSpsr (s : State) : State :=
  match s.spsrOf s.bank with
  | some p => (s.setCpsr p).noteIllegalMode
  | none => s.emitHere (.unpredictable .spsrAccess)

end Sys2Proof.Machine
end

