-- ==== Sys2Proof/Machine/Io.lean ====
section
/-! DEFINITION. The I/O region, byte by byte (R73 to R76 of 20_memory.md): which register owns a byte, what a byte reads as,
and what a byte write does (R440 to R453, R460 to R473, R480 to R482, R488, R493, R497, R498 of 60_exceptions.md). -/

namespace Sys2Proof.Machine

/-! ## The register map (R74) -/

/-- The I/O registers of R74; indexed ones carry their channel, timer or background number. -/
inductive IoReg where
  | dispcnt | dispstat | vcount
  | bgcnt (n : Fin 4) | bgXofs (n : Fin 4) | bgYofs (n : Fin 4)
  | dmaSad (n : Fin 4) | dmaDad (n : Fin 4) | dmaCntL (n : Fin 4) | dmaCntH (n : Fin 4)
  | tmCntL (n : Fin 4) | tmCntH (n : Fin 4)
  | keyinput | keycnt
  | ie | iflag | ime | haltcnt
  deriving DecidableEq, Repr

/-- An index 0..3 from a number. -/
def idx4 (n : Nat) : Fin 4 := ⟨n % 4, Nat.mod_lt _ (by decide)⟩

/-- The register that owns the byte at an I/O offset, with the byte's place in it; none where R74 lists no register. -/
def ioOwner (o : Nat) : Option (IoReg × Nat) :=
  if o < 0x002 then some (.dispcnt, o)
  else if o < 0x004 then none
  else if o < 0x006 then some (.dispstat, o - 0x004)
  else if o < 0x008 then some (.vcount, o - 0x006)
  else if o < 0x010 then some (.bgcnt (idx4 ((o - 0x008) / 2)), o % 2)
  else if o < 0x020 then
    if (o / 2) % 2 = 0 then some (.bgXofs (idx4 ((o - 0x010) / 4)), o % 2)
    else some (.bgYofs (idx4 ((o - 0x010) / 4)), o % 2)
  else if o < 0x0B0 then none
  else if o < 0x0E0 then
    let n := idx4 ((o - 0x0B0) / 12)
    let k := (o - 0x0B0) % 12
    if k < 4 then some (.dmaSad n, k)
    else if k < 8 then some (.dmaDad n, k - 4)
    else if k < 10 then some (.dmaCntL n, k - 8)
    else some (.dmaCntH n, k - 10)
  else if o < 0x100 then none
  else if o < 0x110 then
    let n := idx4 ((o - 0x100) / 4)
    if o % 4 < 2 then some (.tmCntL n, o % 4) else some (.tmCntH n, o % 4 - 2)
  else if o < 0x130 then none
  else if o < 0x132 then some (.keyinput, o - 0x130)
  else if o < 0x134 then some (.keycnt, o - 0x132)
  else if o < 0x200 then none
  else if o < 0x202 then some (.ie, o - 0x200)
  else if o < 0x204 then some (.iflag, o - 0x202)
  else if o < 0x208 then none
  else if o < 0x20A then some (.ime, o - 0x208)
  else if o = 0x301 then some (.haltcnt, 0)
  else none

/-! ## Reads (R75, R76: no read has a side effect) -/

/-- DISPSTAT as read: bits 2:0 are the flags; the VCount flag is computed at the read (R492, R493). -/
def Lcd.readDispstat (l : Lcd) : Half :=
  l.dispstat.extractLsb' 3 13 ++
    (BitVec.ofBool (l.scanline == (l.dispstat.extractLsb' 8 8).toNat) ++ BitVec.ofBool l.hblank ++ BitVec.ofBool l.vblank)

/-- KEYINPUT: bit k is 0 when button k is pressed; bits 15:10 read 0 (R498). -/
def State.readKeyinput (s : State) : Half := (~~~s.keyState).setWidth 16

/-- The 16-bit value of a register as a read sees it; write-only registers read 0 (R74, R75). The 32-bit write-only registers
DMAnSAD and DMAnDAD read 0 in every byte (R473). -/
def State.ioValue (s : State) : IoReg → Half
  | .dispcnt => s.lcd.dispcnt
  | .dispstat => s.lcd.readDispstat
  | .vcount => BitVec.ofNat 16 s.lcd.scanline
  | .bgcnt n => s.lcd.bgcnt[n]
  | .bgXofs _ | .bgYofs _ => 0
  | .dmaSad _ | .dmaDad _ | .dmaCntL _ => 0
  | .dmaCntH n => s.dma[n].cntH
  | .tmCntL n => s.timers[n].counter
  | .tmCntH n => s.timers[n].control
  | .keyinput => s.readKeyinput
  | .keycnt => s.keycnt
  | .ie => s.ie
  | .iflag => s.iflag
  | .ime => if s.ime then 1 else 0
  | .haltcnt => 0

/-- A byte read in the I/O region; none where no register owns the byte (R73). -/
def State.ioReadByte (s : State) (o : Nat) : Option Byte :=
  match ioOwner o with
  | some (.dmaSad _, _) | some (.dmaDad _, _) => some 0
  | some (r, k) => some (halfByte (s.ioValue r) k)
  | none => none

/-! ## DMA control word (R461, R462) -/

/-- `SrcMask(n)` (R462). -/
def dmaSrcMask (n : Fin 4) : Word := if n = 3 then 0x0FFFFFFF else 0x07FFFFFF

/-- `DstMask(n)` (R462; D28). -/
def dmaDstMask (n : Fin 4) : Word := if n = 3 then 0x0FFFFFFF else 0x07FFFFFF

/-- `Count(n)`: 14 bits for channels 0 to 2, 16 bits for channel 3, 0 meaning the maximum (R462). -/
def dmaCount (n : Fin 4) (cntL : Half) : Nat :=
  if n = 3 then (if cntL.toNat = 0 then 0x10000 else cntL.toNat)
  else (if cntL.toNat % 0x4000 = 0 then 0x4000 else cntL.toNat % 0x4000)

/-- `enable`, bit 15 of the control word (R461). -/
def DmaChannel.enable (ch : DmaChannel) : Bool := ch.cntH.getLsbD 15

/-- `irq`, bit 14 (R461). -/
def DmaChannel.irq (ch : DmaChannel) : Bool := ch.cntH.getLsbD 14

/-- `timing`, bits 13:12 (R461). -/
def DmaChannel.timing (ch : DmaChannel) : BitVec 2 := ch.cntH.extractLsb' 12 2

/-- `size`, bit 10 (R461). -/
def DmaChannel.size (ch : DmaChannel) : Bool := ch.cntH.getLsbD 10

/-- `repeat`, bit 9 (R461). -/
def DmaChannel.repeats (ch : DmaChannel) : Bool := ch.cntH.getLsbD 9

/-- `src_ctl`, bits 8:7 (R461). -/
def DmaChannel.srcCtl (ch : DmaChannel) : BitVec 2 := ch.cntH.extractLsb' 7 2

/-- `dst_ctl`, bits 6:5 (R461). -/
def DmaChannel.dstCtl (ch : DmaChannel) : BitVec 2 := ch.cntH.extractLsb' 5 2

/-- The latch of an enable edge (R463). -/
def DmaChannel.latch (ch : DmaChannel) (n : Fin 4) (startDelay : Nat) : DmaChannel :=
  { ch with curSrc := ch.sad &&& dmaSrcMask n, curDst := ch.dad &&& dmaDstMask n,
            remaining := dmaCount n ch.cntL, delay := startDelay }

/-- A byte write to DMAnCNT_H: a 0 to 1 change of bit 15 latches and schedules the channel, with a diagnostic for special timing
(R463, R466); a 1 to 0 change disarms it (R472). -/
def State.writeDmaCntH (s : State) (n : Fin 4) (k : Nat) (b : Byte) : State :=
  let ch := s.dma[n]
  let ch' := { ch with cntH := setHalfByte ch.cntH k b }
  if !ch.enable && ch'.enable then
    let s' := { s with dma := s.dma.set n (ch'.latch n s.params.dmaStartDelay) }
    if ch'.timing = 3 then s'.emit .dmaSpecialNotImplemented (BitVec.ofNat 32 n) else s'
  else if ch.enable && !ch'.enable then { s with dma := s.dma.set n { ch' with delay := 0 } }
  else { s with dma := s.dma.set n ch' }

/-! ## Timer control word (R481) -/

/-- `enable`, bit 7 of TMnCNT_H (R481). -/
def Timer.enable (t : Timer) : Bool := t.control.getLsbD 7

/-- `irq`, bit 6 (R481). -/
def Timer.irq (t : Timer) : Bool := t.control.getLsbD 6

/-- `count_up`, bit 2 (R481). -/
def Timer.countUp (t : Timer) : Bool := t.control.getLsbD 2

/-- The prescaler period of bits 1:0 (R481). -/
def Timer.period (t : Timer) : Nat :=
  match (t.control.extractLsb' 0 2).toNat with
  | 0 => 1 | 1 => 64 | 2 => 256 | _ => 1024

/-- A byte write to TMnCNT_H: a 0 to 1 change of the enable bit loads the counter and clears the accumulator (R482). -/
def State.writeTmCntH (s : State) (n : Fin 4) (k : Nat) (b : Byte) : State :=
  let t := s.timers[n]
  let t' := { t with control := setHalfByte t.control k b }
  if !t.enable && t'.enable then { s with timers := s.timers.set n { t' with counter := t'.reload, acc := 0 } }
  else { s with timers := s.timers.set n t' }

/-! ## Byte writes -/

/-- A byte write to DISPSTAT: byte 0 stores bits 7:3, bits 2:0 are read-only (R493). -/
def writeDispstat (v : Half) (k : Nat) (b : Byte) : Half :=
  if k = 0 then setHalfByte v 0 (b &&& 0xF8) else setHalfByte v k b

/-- A byte write to a scroll register: 9 bits, the high byte gives bit 8 (R497). -/
def writeScroll (v : BitVec 9) (k : Nat) (b : Byte) : BitVec 9 :=
  if k = 0 then v.extractLsb' 8 1 ++ b else b.extractLsb' 0 1 ++ v.extractLsb' 0 8

/-- A byte write to HALTCNT: STOP is not implemented, anything else halts unless an enabled interrupt is pending
(R450, R451, R453). -/
def State.writeHaltcnt (s : State) (b : Byte) : State :=
  if b.getLsbD 7 then s.emit .stopNotImplemented (b.setWidth 32) else { s with halted := true }.releaseHalt

/-- The effect of a byte write to byte `k` of a register (R75, R76 and the register's own rule). -/
def State.ioWriteReg (s : State) (r : IoReg) (k : Nat) (b : Byte) : State :=
  match r with
  | .dispcnt => { s with lcd := { s.lcd with dispcnt := setHalfByte s.lcd.dispcnt k b } }
  | .dispstat => { s with lcd := { s.lcd with dispstat := writeDispstat s.lcd.dispstat k b } }
  | .vcount => s
  | .bgcnt n => { s with lcd := { s.lcd with bgcnt := s.lcd.bgcnt.set n (setHalfByte s.lcd.bgcnt[n] k b) } }
  | .bgXofs n => { s with lcd := { s.lcd with bgXofs := s.lcd.bgXofs.set n (writeScroll s.lcd.bgXofs[n] k b) } }
  | .bgYofs n => { s with lcd := { s.lcd with bgYofs := s.lcd.bgYofs.set n (writeScroll s.lcd.bgYofs[n] k b) } }
  | .dmaSad n => { s with dma := s.dma.set n { s.dma[n] with sad := setWordByte s.dma[n].sad k b } }
  | .dmaDad n => { s with dma := s.dma.set n { s.dma[n] with dad := setWordByte s.dma[n].dad k b } }
  | .dmaCntL n => { s with dma := s.dma.set n { s.dma[n] with cntL := setHalfByte s.dma[n].cntL k b } }
  | .dmaCntH n => s.writeDmaCntH n k b
  | .tmCntL n => { s with timers := s.timers.set n { s.timers[n] with reload := setHalfByte s.timers[n].reload k b } }
  | .tmCntH n => s.writeTmCntH n k b
  | .keyinput => s
  | .keycnt => { s with keycnt := setHalfByte s.keycnt k b }
  | .ie => { s with ie := setHalfByte s.ie k b }.releaseHalt
  | .iflag => { s with iflag := s.iflag &&& ~~~(setHalfByte 0 k b) }
  | .ime => if k = 0 then { s with ime := b.getLsbD 0 } else s
  | .haltcnt => s.writeHaltcnt b

/-- A byte write in the I/O region; dropped where no register owns the byte (R73). -/
def State.ioWriteByte (s : State) (o : Nat) (b : Byte) : State :=
  match ioOwner o with
  | some (r, k) => s.ioWriteReg r k b
  | none => s

end Sys2Proof.Machine
end

