-- ==== Sys2Proof/Machine/Bus.lean ====
section
/-! DEFINITION. The memory bus: the address decoder (R61, R62 of 20_memory.md), byte accesses (R63 to R69), accesses of 1, 2 and
4 bytes (R70), and the load-store primitives (R80 to R84). -/

namespace Sys2Proof.Machine

/-- The region that owns an address, with the offset in it (R62). -/
inductive Region where
  | bios (o : Nat) | ewram (o : Nat) | iwram (o : Nat) | io (o : Nat) | palette (o : Nat) | vram (o : Nat)
  | oam (o : Nat) | rom (o : Nat) | save (o : Nat) | unmapped
  deriving DecidableEq, Repr

/-- The decoder of R62: a[31:28] must be 0, a[27:24] selects. -/
def region (a : Word) : Region :=
  let n := a.toNat
  match n / 0x1000000 with
  | 0x0 => if n ≤ 0x00003FFF then .bios n else .unmapped
  | 0x2 => .ewram (n % 0x40000)
  | 0x3 => .iwram (n % 0x8000)
  | 0x4 => if n ≤ 0x040003FF then .io (n % 0x400) else .unmapped
  | 0x5 => if n ≤ 0x050003FF then .palette (n % 0x400) else .unmapped
  | 0x6 => if n ≤ 0x06017FFF then .vram (n - 0x06000000) else .unmapped
  | 0x7 => if n ≤ 0x070003FF then .oam (n % 0x400) else .unmapped
  | 0x8 | 0x9 | 0xA | 0xB | 0xC | 0xD => .rom (n % 0x2000000)
  | 0xE => if n ≤ 0x0E00FFFF then .save (n % 0x10000) else .unmapped
  | _ => .unmapped

/-- The canonical address in the memory list of a byte of RAM, palette, VRAM, OAM (R43, R69); none for the other regions. -/
def Region.ramKey : Region → Option Nat
  | .ewram o => some (0x02000000 + o)
  | .iwram o => some (0x03000000 + o)
  | .palette o => some (0x05000000 + o)
  | .vram o => some (0x06000000 + o)
  | .oam o => some (0x07000000 + o)
  | .bios _ | .io _ | .rom _ | .save _ | .unmapped => none

/-- The canonical address of a byte of the ROM image (R67). -/
def romKey (o : Nat) : Nat := 0x08000000 + o

/-- Whether a read of the byte is mapped (R63, R65, R67, R68, R73). -/
def State.readMapped (s : State) (a : Word) : Bool :=
  match region a with
  | .bios _ => s.params.biosPresent
  | .io o => (ioOwner o).isSome
  | .rom o => decide (o < s.params.romLen.val)
  | .save _ => s.save.isSome
  | .unmapped => false
  | .ewram _ | .iwram _ | .palette _ | .vram _ | .oam _ => true

/-- Whether a write of the byte is mapped; BIOS and ROM are mapped but read-only (R63 to R65, R68, R73). -/
def State.writeMapped (s : State) (a : Word) : Bool :=
  match region a with
  | .bios _ => s.params.biosPresent
  | .io o => (ioOwner o).isSome
  | .save _ => s.save.isSome
  | .unmapped => false
  | .rom _ | .ewram _ | .iwram _ | .palette _ | .vram _ | .oam _ => true

/-- Whether the byte is in a read-only region (R64, R65). -/
def State.readOnly (s : State) (a : Word) : Bool :=
  match region a with
  | .bios _ => s.params.biosPresent
  | .rom _ => true
  | .io _ | .save _ | .unmapped | .ewram _ | .iwram _ | .palette _ | .vram _ | .oam _ => false

/-- `BusReadByte(a)` without its diagnostic (R62 to R69, R73). Only a save device records a read (R68). -/
def State.busReadByte (s : State) (a : Word) : Byte × State :=
  match region a with
  | .bios o => (if s.params.biosPresent then Memory.read s.mem o else s.params.unusedValue, s)
  | .io o => ((s.ioReadByte o).getD s.params.unusedValue, s)
  | .rom o => (if o < s.params.romLen.val then Memory.read s.mem (romKey o) else s.params.unusedValue, s)
  | .save o =>
    match s.save with
    | some h => (Config.saveRead h (BitVec.ofNat 16 o), { s with save := some (.read (BitVec.ofNat 16 o) :: h) })
    | none => (s.params.unusedValue, s)
  | .unmapped => (s.params.unusedValue, s)
  | .ewram o => (Memory.read s.mem (0x02000000 + o), s)
  | .iwram o => (Memory.read s.mem (0x03000000 + o), s)
  | .palette o => (Memory.read s.mem (0x05000000 + o), s)
  | .vram o => (Memory.read s.mem (0x06000000 + o), s)
  | .oam o => (Memory.read s.mem (0x07000000 + o), s)

/-- `BusWriteByte(a, b)` without its diagnostic (R62 to R69, R73). -/
def State.busWriteByte (s : State) (a : Word) (b : Byte) : State :=
  match region a with
  | .io o => s.ioWriteByte o b
  | .save o =>
    match s.save with
    | some h => { s with save := some (.write (BitVec.ofNat 16 o) b :: h) }
    | none => s
  | .bios _ | .rom _ | .unmapped => s
  | .ewram o => { s with mem := Memory.write s.mem (0x02000000 + o) b }
  | .iwram o => { s with mem := Memory.write s.mem (0x03000000 + o) b }
  | .palette o => { s with mem := Memory.write s.mem (0x05000000 + o) b }
  | .vram o => { s with mem := Memory.write s.mem (0x06000000 + o) b }
  | .oam o => { s with mem := Memory.write s.mem (0x07000000 + o) b }

/-- `k` bytes from `a` on, in ascending order, little-endian (R70, R71). -/
def State.readBytes (s : State) (a : Word) : Nat → Word × State
  | 0 => (0, s)
  | k + 1 =>
    let (b, s1) := s.busReadByte a
    let (hi, s2) := s1.readBytes (a + 1) k
    (b.setWidth 32 ||| hi <<< 8, s2)

/-- The `k` low bytes of `v` to `a` on, in ascending order, little-endian (R70, R71). -/
def State.writeBytes (s : State) (a : Word) (v : Word) : Nat → State
  | 0 => s
  | k + 1 => (s.busWriteByte a (v.extractLsb' 0 8)).writeBytes (a + 1) (v >>> 8) k

/-- Whether some byte of the `n` bytes from `a` on fails a test. -/
def anyByte (test : Word → Bool) (a : Word) (n : Nat) : Bool :=
  (List.range n).any fun k => test (a + BitVec.ofNat 32 k)

/-- `BusRead(a, n)`, with one diagnostic if any byte of the access is unmapped (R63, R70, R73). -/
def State.busRead (s : State) (a : Word) (n : Nat) : Word × State :=
  let (v, s') := s.readBytes a n
  (v, if anyByte (fun x => !s.readMapped x) a n then s'.emit .unmappedRead a else s')

/-- `BusWrite(a, n, v)`, with one diagnostic if any byte is unmapped or read-only (R63, R64, R70, R73). The diagnostic stands
before those the bytes themselves emit (log 16). -/
def State.busWrite (s : State) (a : Word) (n : Nat) (v : Word) : State :=
  let s1 := if anyByte (fun x => !s.writeMapped x) a n then s.emit .unmappedWrite a else s
  let s2 := if anyByte (fun x => s.readOnly x) a n then s1.emit .readonlyWrite a else s1
  s2.writeBytes a v n

/-- The address forced to a multiple of the access size 1, 2 or 4 (R11). -/
def alignTo (a : Word) (n : Nat) : Word := a &&& ~~~(BitVec.ofNat 32 (n - 1))

/-- `MemRead(addr, n)` (R11, R70). -/
def State.memRead (s : State) (a : Word) (n : Nat) : Word × State := s.busRead (alignTo a n) n

/-- `MemWrite(addr, n, v)` (R11, R70). -/
def State.memWrite (s : State) (a : Word) (n : Nat) (v : Word) : State := s.busWrite (alignTo a n) n v

/-- Rotate right by 8 times the low two address bits (R80). -/
def rotateForWord (a : Word) (v : Word) : Word := v.rotateRight (8 * (a.toNat % 4))

/-- `LoadWord(ea)` (R80). -/
def State.loadWord (s : State) (ea : Word) : Word × State :=
  let (v, s') := s.memRead ea 4
  (rotateForWord ea v, s')

/-- `LoadHalfUnsigned(ea)`: an odd address rotates the zero-extended halfword by 8 (R81). -/
def State.loadHalf (s : State) (ea : Word) : Word × State :=
  let (v, s') := s.memRead ea 2
  (if ea.getLsbD 0 then v.rotateRight 8 else v, s')

/-- `LoadByteUnsigned(ea)` (R82). -/
def State.loadByte (s : State) (ea : Word) : Word × State := s.memRead ea 1

/-- `LoadByteSigned(ea)` (R82). -/
def State.loadByteSigned (s : State) (ea : Word) : Word × State :=
  let (v, s') := s.memRead ea 1
  ((v.setWidth 8).signExtend 32, s')

/-- `LoadHalfSigned(ea)`: an odd address loads the signed byte (R82). -/
def State.loadHalfSigned (s : State) (ea : Word) : Word × State :=
  if ea.getLsbD 0 then s.loadByteSigned ea
  else
    let (v, s') := s.memRead ea 2
    ((v.setWidth 16).signExtend 32, s')

/-- `StoreWord(ea, v)` (R83). -/
def State.storeWord (s : State) (ea v : Word) : State := s.memWrite ea 4 v

/-- `StoreHalf(ea, v)` (R83). -/
def State.storeHalf (s : State) (ea v : Word) : State := s.memWrite ea 2 v

/-- `StoreByte(ea, v)` (R83). -/
def State.storeByte (s : State) (ea v : Word) : State := s.memWrite ea 1 v

end Sys2Proof.Machine
end

