-- ==== Sys2Proof/Machine/Flags.lean ====
section
/-! DEFINITION. Conditions (R160), the adder (R175) and the flag updates (R176 to R178, R240). -/

namespace Sys2Proof.Machine

/-- `CondPassed(c)` (R160); the reserved code passes (R161). -/
def condPassed (p : Psr) : Cond → Bool
  | .eq => p.z
  | .ne => !p.z
  | .cs => p.c
  | .cc => !p.c
  | .mi => p.n
  | .pl => !p.n
  | .vs => p.v
  | .vc => !p.v
  | .hi => p.c && !p.z
  | .ls => !p.c || p.z
  | .ge => p.n == p.v
  | .lt => p.n != p.v
  | .gt => !p.z && p.n == p.v
  | .le => p.z || p.n != p.v
  | .al => true
  | .nv => true

/-- What the adder returns: the 32-bit result, Cout and Vout (R175). -/
structure Sum where
  value    : Word
  carry    : Bool
  overflow : Bool
  deriving DecidableEq, Repr

/-- `AddWithCarry(a, b, cin)` (R175). -/
def addWithCarry (a b : Word) (cin : Bool) : Sum :=
  let usum := a.toNat + b.toNat + cin.toNat
  let result := BitVec.ofNat 32 usum
  { value := result
    carry := decide (2 ^ 32 ≤ usum)
    overflow := a.msb == b.msb && result.msb != a.msb }

/-- `SetLogicalFlags(result, co)`: N, Z; C unless `co` is UNAFFECTED; V unchanged (R176). -/
def logicalFlags (result : Word) (co : Option Bool) (p : Psr) : Psr :=
  { p with n := result.msb, z := result == 0, c := co.getD p.c }

/-- The flag update of an arithmetic operation: N, Z, C, V (R177). -/
def arithFlags (r : Sum) (p : Psr) : Psr :=
  { p with n := r.value.msb, z := r.value == 0, c := r.carry, v := r.overflow }

/-- The flag update of a 32-bit multiply: N, Z; C and V unchanged (R240 (b); log 6). -/
def mulFlags (result : Word) (p : Psr) : Psr := { p with n := result.msb, z := result == 0 }

/-- The flag update of a long multiply: N from bit 63, Z from all 64 bits; C and V unchanged (R240 (b); log 6). -/
def mullFlags (result : BitVec 64) (p : Psr) : Psr := { p with n := result.msb, z := result == 0 }

/-- A flag update of the CPSR. -/
def State.updateFlags (s : State) (f : Psr → Psr) : State := s.setCpsr (f s.cpsr)

end Sys2Proof.Machine
end

