-- ==== Sys2Proof/Machine/Operands.lean ====
section
/-! DEFINITION. The barrel shifter (R165 to R171), operand 2 (R172) and the addressing of transfers (R250, R260, R280). -/

namespace Sys2Proof.Machine

/-! ## Barrel shifter: the value and the carry-out, `none` for UNAFFECTED (R165) -/

/-- LSL (R166). -/
def shiftLsl (v : Word) (n : Nat) : Word × Option Bool :=
  if n = 0 then (v, none)
  else if n < 32 then (v <<< n, some (v.getLsbD (32 - n)))
  else if n = 32 then (0, some (v.getLsbD 0))
  else (0, some false)

/-- LSR (R167). -/
def shiftLsr (v : Word) (n : Nat) : Word × Option Bool :=
  if n = 0 then (v, none)
  else if n < 32 then (v >>> n, some (v.getLsbD (n - 1)))
  else if n = 32 then (0, some (v.getLsbD 31))
  else (0, some false)

/-- ASR (R168). -/
def shiftAsr (v : Word) (n : Nat) : Word × Option Bool :=
  if n = 0 then (v, none)
  else if n < 32 then (v.sshiftRight n, some (v.getLsbD (n - 1)))
  else (if v.getLsbD 31 then 0xFFFFFFFF else 0, some (v.getLsbD 31))

/-- ROR (R169). -/
def shiftRor (v : Word) (n : Nat) : Word × Option Bool :=
  if n = 0 then (v, none)
  else (v.rotateRight (n % 32), some (v.getLsbD ((n - 1) % 32)))

/-- RRX (R169). -/
def shiftRrx (v : Word) (c : Bool) : Word × Option Bool :=
  (BitVec.ofBool c ++ v.extractLsb' 1 31, some (v.getLsbD 0))

/-- A shift by an amount that is used as it is: register amounts (R170). -/
def shiftBy (ty : ShiftType) (v : Word) (n : Nat) : Word × Option Bool :=
  match ty with
  | .lsl => shiftLsl v n
  | .lsr => shiftLsr v n
  | .asr => shiftAsr v n
  | .ror => shiftRor v n

/-- A shift by an immediate field: 0 means 32 for LSR and ASR and RRX for ROR (R167 to R169, R172). -/
def shiftImm (ty : ShiftType) (v : Word) (n : BitVec 5) (c : Bool) : Word × Option Bool :=
  match ty with
  | .lsl => shiftLsl v n.toNat
  | .lsr => shiftLsr v (if n = 0 then 32 else n.toNat)
  | .asr => shiftAsr v (if n = 0 then 32 else n.toNat)
  | .ror => if n = 0 then shiftRrx v c else shiftRor v n.toNat

/-- `ImmOperand(rotate, imm8)` (R171). -/
def immOperand (rotate : BitVec 4) (imm8 : BitVec 8) : Word × Option Bool :=
  let r := (imm8.setWidth 32).rotateRight (2 * rotate.toNat)
  (r, if rotate = 0 then none else some (r.getLsbD 31))

/-- The amount of a register-specified shift: the low byte of the register (R170). -/
def shiftAmount (v : Word) : Nat := (v.extractLsb' 0 8).toNat

/-- `Operand2(w)` (R172); R15 reads A + 8 in every position (R218; log 5). -/
def State.operand2 (s : State) : Operand2 → Word × Option Bool
  | .imm rotate imm8 => immOperand rotate imm8
  | .shiftImm rm ty n => shiftImm ty (s.readReg rm) n s.cpsr.c
  | .shiftReg rm ty rs => shiftBy ty (s.readReg rm) (shiftAmount (s.readReg rs))

/-- The operand of MSR; the carry-out of an immediate is discarded (R231). -/
def State.msrOperand (s : State) : MsrOperand → Word
  | .imm rotate imm8 => (immOperand rotate imm8).1
  | .reg rm => s.readReg rm

/-! ## Addresses of transfers -/

/-- What SdtAddress and HsdtAddress return (R250, R260). -/
structure Address where
  ea    : Word
  eaOff : Word
  wb    : Bool
  deriving DecidableEq, Repr

/-- The address arithmetic shared by R250 and R260. -/
def indexed (p u w : Bool) (base off : Word) : Address :=
  let eaOff := if u then base + off else base - off
  { ea := if p then eaOff else base, eaOff := eaOff, wb := !p || w }

/-- The offset of a single data transfer; the shifter carry-out is discarded (R250). -/
def State.sdtOffset (s : State) : SdtOffset → Word
  | .imm v => v.setWidth 32
  | .reg rm ty n => (shiftImm ty (s.readReg rm) n s.cpsr.c).1

/-- `SdtAddress(w)` (R250). -/
def State.sdtAddress (s : State) (p u w : Bool) (rn : Reg) (off : SdtOffset) : Address :=
  indexed p u w (s.readReg rn) (s.sdtOffset off)

/-- The offset of a halfword transfer (R260). -/
def State.hsdtOffset (s : State) : HsdtOffset → Word
  | .imm v => v.setWidth 32
  | .reg rm => s.readReg rm

/-- `HsdtAddress(w)` (R260). -/
def State.hsdtAddress (s : State) (p u w : Bool) (rn : Reg) (off : HsdtOffset) : Address :=
  indexed p u w (s.readReg rn) (s.hsdtOffset off)

/-- The registers of a list, lowest number first (R120, R280). -/
def regList (list : BitVec 16) : List Reg :=
  ((List.range 16).filter fun i => list.getLsbD i).map fun i => BitVec.ofNat 4 i

/-- The registers of a THUMB list, R0 to R7 (R131). -/
def lowRegList (list : BitVec 8) : List Reg :=
  ((List.range 8).filter fun i => list.getLsbD i).map fun i => BitVec.ofNat 4 i

/-- `start` of BlockAddress for a block of `n` words (R280). -/
def blockStart (p u : Bool) (base : Word) (n : Nat) : Word :=
  if u then base + (if p then 4 else 0) else base - BitVec.ofNat 32 (4 * n) + (if p then 0 else 4)

/-- `final` of BlockAddress for a block of `n` words (R280). -/
def blockFinal (u : Bool) (base : Word) (n : Nat) : Word :=
  if u then base + BitVec.ofNat 32 (4 * n) else base - BitVec.ofNat 32 (4 * n)

end Sys2Proof.Machine
end

