-- ==== Sys2Proof/Machine/Pipeline.lean ====
section
/-! DEFINITION. The pipeline: fetch, refill, advance, the end of an executing step (R151 to R154 of 40_cond_shifter_alu.md), and the
frame every instruction's operation runs in (R155, R156, R161). -/

namespace Sys2Proof.Machine

/-- `Fetch(addr, isz)` of the current state (R11). -/
def State.fetch (s : State) (a : Word) : Word × State := s.memRead a s.isz

/-- Refill (R151). -/
def State.refill (s : State) : State :=
  let b := s.r15
  let (e, s1) := s.fetch b
  let (d, s2) := s1.fetch (b + s.iszWord)
  let (f, s3) := s2.fetch (b + 2 * s.iszWord)
  { s3 with pipeE := e, pipeD := d, pipeF := f, r15 := b + 2 * s.iszWord, pipeValid := true }

/-- Advance (R152). -/
def State.advance (s : State) : State :=
  let (f, s1) := s.fetch (s.r15 + s.iszWord)
  { s1 with r15 := s.r15 + s.iszWord, pipeE := s.pipeD, pipeD := s.pipeF, pipeF := f }

/-- The alignment of a value written to R15, by the state that holds after the instruction (R32, R153; log 5). -/
def alignPc (t : Bool) (target : Word) : Word := if t then target &&& 0xFFFFFFFE else target &&& 0xFFFFFFFC

/-- ApplyPC (R153). -/
def State.applyPc (s : State) (target : Word) : State :=
  { s with r15 := alignPc s.cpsr.t target, pipeValid := false, pcWrite := none }

/-- The end of an executing step that began in the state with T = `oldT`: ApplyPC if R15 was written (R153), the realignment of a
bare change of T (R154), or Advance (R152). -/
def State.finish (s : State) (oldT : Bool) : State :=
  match s.pcWrite with
  | some target => s.applyPc target
  | none => if s.cpsr.t = oldT then s.advance else { s with r15 := alignPc s.cpsr.t s.r15, pipeValid := false }

/-- The start of an executing step: no write to R15 is recorded (R10; log 31). -/
def State.begin (s : State) : State := { s with pcWrite := none }

/-- The diagnostic of condition code 0xF (R161; log 11). -/
def State.noteCond (s : State) (c : Cond) : State := if c = .nv then s.emitHere .condReserved else s

/-- An ARM instruction: if its condition passes, its operation and the end of the step; otherwise only Advance (R155, R156). -/
def execArm (c : Cond) (op : State → State) (s : State) : Host.Outcome State Fault Refusal :=
  if condPassed s.cpsr c then .next ((op (s.begin.noteCond c)).finish s.cpsr.t) else .next s.begin.advance

/-- A THUMB instruction: its operation and the end of the step (R155, R310). -/
def execThumb (op : State → State) (s : State) : Host.Outcome State Fault Refusal :=
  .next ((op s.begin).finish s.cpsr.t)

end Sys2Proof.Machine
end

