-- ==== Sys2Proof/Machine/ArmBlock.lean ====
section
/-! DEFINITION. LDM and STM (R280 to R285 of 46_arm_block_swap.md); the word sequences are shared with the THUMB block
transfers. -/

namespace Sys2Proof.Machine

/-- `n` words at `a`, `a + 4`, ..., ascending, each at the aligned address, without rotation (R84, R280, R281). -/
def State.readWords (s : State) (a : Word) : Nat → List Word × State
  | 0 => ([], s)
  | n + 1 =>
    let (v, s1) := s.memRead a 4
    let (vs, s2) := s1.readWords (a + 4) n
    (v :: vs, s2)

/-- Words to `a`, `a + 4`, ..., ascending, each at the aligned address (R84, R280, R282). -/
def State.writeWords (s : State) (a : Word) : List Word → State
  | [] => s
  | v :: vs => (s.memWrite a 4 v).writeWords (a + 4) vs

/-- `x[r_k] <- v_k` in order, through a bank (R281, R283). -/
def State.writeRegs (s : State) (bank : Bank) : List Reg → List Word → State
  | r :: rs, v :: vs => (s.writeBank bank r v).writeRegs bank rs vs
  | _, _ => s

/-- The diagnostic of an empty register list (R284; log 12). -/
def State.noteEmptyList (s : State) : State := s.emitHere (.unpredictable .emptyList)

/-- LDM with a non-empty list (R281, R283): with S = 1 and R15 not in the list the user bank is loaded; with S = 1 and R15 in the
list the SPSR is restored after the loads. -/
def State.ldmList (s : State) (p u sb w : Bool) (rn : Reg) (list : BitVec 16) : State :=
  let rs := regList list
  let base := s.readReg rn
  let (vs, s1) := s.readWords (blockStart p u base rs.length) rs.length
  let s2 := if w then s1.writeReg rn (blockFinal u base rs.length) else s1
  if sb then
    if list.getLsbD 15 then (s2.writeRegs s.bank rs vs).restoreFromSpsr else s2.writeRegs .usr rs vs
  else s2.writeRegs s.bank rs vs

/-- LDM with an empty list: R15 alone, the base adjusted by 0x40 (R284; log 12). -/
def State.ldmEmpty (s : State) (p u sb w : Bool) (rn : Reg) : State :=
  let base := s.readReg rn
  let (v, s1) := s.noteEmptyList.memRead (blockStart p u base 16) 4
  let s2 := if w then s1.writeReg rn (blockFinal u base 16) else s1
  (if sb then s2.restoreFromSpsr else s2).branchTo v

/-- LDM (R281). -/
def execLdm (c : Cond) (p u sb w : Bool) (rn : Reg) (list : BitVec 16) (s : State) : Host.Outcome State Fault Refusal :=
  execArm c (fun s => if list = 0 then s.ldmEmpty p u sb w rn else s.ldmList p u sb w rn list) s

/-- Whether the base register, in the list with write-back, is stored as `final`: it is not the lowest register of the list, and
the stored register is the base's own physical register (R282, R285; log 13). -/
def State.stmSubstitutes (s : State) (sb w : Bool) (rn r : Reg) (first : Bool) : Bool :=
  w && r == rn && !first && (!sb || rn == 15 || physIndex .usr rn == physIndex s.bank rn)

/-- The values STM stores, lowest register first: the current bank, or the user bank with S = 1 (R282, R283, R285). -/
def State.stmValues (s : State) (sb w : Bool) (rn : Reg) (final : Word) : Bool → List Reg → List Word
  | _, [] => []
  | first, r :: rs =>
    (if s.stmSubstitutes sb w rn r first then final else if sb then s.readUser r else s.readReg r) ::
      s.stmValues sb w rn final false rs

/-- STM with a non-empty list (R282, R283, R285). -/
def State.stmList (s : State) (p u sb w : Bool) (rn : Reg) (list : BitVec 16) : State :=
  let rs := regList list
  let base := s.readReg rn
  let final := blockFinal u base rs.length
  let s1 := s.writeWords (blockStart p u base rs.length) (s.stmValues sb w rn final true rs)
  if w then s1.writeReg rn final else s1

/-- STM with an empty list: R15 alone, the base adjusted by 0x40 (R284; log 12). -/
def State.stmEmpty (s : State) (p u w : Bool) (rn : Reg) : State :=
  let base := s.readReg rn
  let s1 := s.noteEmptyList.memWrite (blockStart p u base 16) 4 s.r15
  if w then s1.writeReg rn (blockFinal u base 16) else s1

/-- STM (R282). -/
def execStm (c : Cond) (p u sb w : Bool) (rn : Reg) (list : BitVec 16) (s : State) : Host.Outcome State Fault Refusal :=
  execArm c (fun s => if list = 0 then s.stmEmpty p u w rn else s.stmList p u sb w rn list) s

end Sys2Proof.Machine
end

