-- ==== Sys2Proof/Machine/ArmBranch.lean ====
section
/-! DEFINITION. B, BL, BX (R190 to R192 of 41_arm_branch.md). -/

namespace Sys2Proof.Machine

/-- The target of B and BL: `x[15] + (sext_24(offset24) << 2)` (R190, R191). -/
def State.armBranchTarget (s : State) (off : BitVec 24) : Word := s.r15 + (off.signExtend 32 <<< 2)

/-- The exchange of BX, shared with THUMB: T becomes bit 0 of the target (R192, R341). -/
def State.branchExchange (s : State) (target : Word) : State :=
  (s.setCpsr { s.cpsr with t := target.getLsbD 0 }).branchTo target

/-- B (R190). -/
def execB (c : Cond) (off : BitVec 24) (s : State) : Host.Outcome State Fault Refusal :=
  execArm c (fun s => s.branchTo (s.armBranchTarget off)) s

/-- BL: the link is `x[15] - 4` (R191). -/
def execBl (c : Cond) (off : BitVec 24) (s : State) : Host.Outcome State Fault Refusal :=
  execArm c (fun s => (s.writeReg 14 (s.r15 - 4)).branchTo (s.armBranchTarget off)) s

/-- BX (R192). -/
def execBx (c : Cond) (rn : Reg) (s : State) : Host.Outcome State Fault Refusal :=
  execArm c (fun s => s.branchExchange (s.readReg rn)) s

end Sys2Proof.Machine
end

