-- ==== Sys2Proof/Machine/ArmData.lean ====
section
/-! DEFINITION. The sixteen data-processing instructions (R200 to R218 of 42_arm_data_processing.md). -/

namespace Sys2Proof.Machine

/-- The destination write of the common frame: with Rd = 15 and S = 1 the SPSR goes to the CPSR, and pc takes the result; else
the register is written and, with S = 1, the flags (R179, R200). -/
def State.aluWrite (s : State) (sf : Bool) (rd : Reg) (result : Word) (flags : Psr → Psr) : State :=
  if rd = 15 then (if sf then s.restoreFromSpsr else s).writeReg 15 result
  else if sf then (s.writeReg rd result).updateFlags flags else s.writeReg rd result

/-- A logical operation with a destination (R176, R200). -/
def State.aluLogical (s : State) (f : Word → Word → Word) (sf : Bool) (rn rd : Reg) (o : Operand2) : State :=
  let (op2, co) := s.operand2 o
  let result := f (s.readReg rn) op2
  s.aluWrite sf rd result (logicalFlags result co)

/-- MOV and MVN: no first operand (R200, R214, R216). -/
def State.aluMove (s : State) (f : Word → Word) (sf : Bool) (rd : Reg) (o : Operand2) : State :=
  let (op2, co) := s.operand2 o
  s.aluWrite sf rd (f op2) (logicalFlags (f op2) co)

/-- An arithmetic operation with a destination; `f op1 op2 C` (R177, R200). -/
def State.aluArith (s : State) (f : Word → Word → Bool → Sum) (sf : Bool) (rn rd : Reg) (o : Operand2) : State :=
  let r := f (s.readReg rn) (s.operand2 o).1 s.cpsr.c
  s.aluWrite sf rd r.value (arithFlags r)

/-- TST and TEQ: only flags (R200, R217). -/
def State.aluTest (s : State) (f : Word → Word → Word) (rn : Reg) (o : Operand2) : State :=
  let (op2, co) := s.operand2 o
  s.updateFlags (logicalFlags (f (s.readReg rn) op2) co)

/-- CMP and CMN: only flags (R200, R217). -/
def State.aluCompare (s : State) (f : Word → Word → Bool → Sum) (rn : Reg) (o : Operand2) : State :=
  s.updateFlags (arithFlags (f (s.readReg rn) (s.operand2 o).1 s.cpsr.c))

/-- The operand assignments of R177. -/
def sumAdd (op1 op2 : Word) (_ : Bool) : Sum := addWithCarry op1 op2 false

/-- `op1 - op2` (R177). -/
def sumSub (op1 op2 : Word) (_ : Bool) : Sum := addWithCarry op1 (~~~op2) true

/-- `op2 - op1` (R177). -/
def sumRsb (op1 op2 : Word) (_ : Bool) : Sum := addWithCarry op2 (~~~op1) true

/-- `op1 + op2 + C` (R177, R178). -/
def sumAdc (op1 op2 : Word) (c : Bool) : Sum := addWithCarry op1 op2 c

/-- `op1 - op2 - (1 - C)` (R177, R178). -/
def sumSbc (op1 op2 : Word) (c : Bool) : Sum := addWithCarry op1 (~~~op2) c

/-- `op2 - op1 - (1 - C)` (R177, R178). -/
def sumRsc (op1 op2 : Word) (c : Bool) : Sum := addWithCarry op2 (~~~op1) c

/-- AND (R201). -/
def execAnd (c : Cond) (sf : Bool) (rn rd : Reg) (o : Operand2) (s : State) : Host.Outcome State Fault Refusal :=
  execArm c (fun s => s.aluLogical (· &&& ·) sf rn rd o) s

/-- EOR (R202). -/
def execEor (c : Cond) (sf : Bool) (rn rd : Reg) (o : Operand2) (s : State) : Host.Outcome State Fault Refusal :=
  execArm c (fun s => s.aluLogical (· ^^^ ·) sf rn rd o) s

/-- SUB (R203). -/
def execSub (c : Cond) (sf : Bool) (rn rd : Reg) (o : Operand2) (s : State) : Host.Outcome State Fault Refusal :=
  execArm c (fun s => s.aluArith sumSub sf rn rd o) s

/-- RSB (R204). -/
def execRsb (c : Cond) (sf : Bool) (rn rd : Reg) (o : Operand2) (s : State) : Host.Outcome State Fault Refusal :=
  execArm c (fun s => s.aluArith sumRsb sf rn rd o) s

/-- ADD (R205). -/
def execAdd (c : Cond) (sf : Bool) (rn rd : Reg) (o : Operand2) (s : State) : Host.Outcome State Fault Refusal :=
  execArm c (fun s => s.aluArith sumAdd sf rn rd o) s

/-- ADC (R206). -/
def execAdc (c : Cond) (sf : Bool) (rn rd : Reg) (o : Operand2) (s : State) : Host.Outcome State Fault Refusal :=
  execArm c (fun s => s.aluArith sumAdc sf rn rd o) s

/-- SBC (R207). -/
def execSbc (c : Cond) (sf : Bool) (rn rd : Reg) (o : Operand2) (s : State) : Host.Outcome State Fault Refusal :=
  execArm c (fun s => s.aluArith sumSbc sf rn rd o) s

/-- RSC (R208). -/
def execRsc (c : Cond) (sf : Bool) (rn rd : Reg) (o : Operand2) (s : State) : Host.Outcome State Fault Refusal :=
  execArm c (fun s => s.aluArith sumRsc sf rn rd o) s

/-- TST (R209). -/
def execTst (c : Cond) (rn : Reg) (o : Operand2) (s : State) : Host.Outcome State Fault Refusal :=
  execArm c (fun s => s.aluTest (· &&& ·) rn o) s

/-- TEQ (R210). -/
def execTeq (c : Cond) (rn : Reg) (o : Operand2) (s : State) : Host.Outcome State Fault Refusal :=
  execArm c (fun s => s.aluTest (· ^^^ ·) rn o) s

/-- CMP (R211). -/
def execCmp (c : Cond) (rn : Reg) (o : Operand2) (s : State) : Host.Outcome State Fault Refusal :=
  execArm c (fun s => s.aluCompare sumSub rn o) s

/-- CMN (R212). -/
def execCmn (c : Cond) (rn : Reg) (o : Operand2) (s : State) : Host.Outcome State Fault Refusal :=
  execArm c (fun s => s.aluCompare sumAdd rn o) s

/-- ORR (R213). -/
def execOrr (c : Cond) (sf : Bool) (rn rd : Reg) (o : Operand2) (s : State) : Host.Outcome State Fault Refusal :=
  execArm c (fun s => s.aluLogical (· ||| ·) sf rn rd o) s

/-- MOV (R214). -/
def execMov (c : Cond) (sf : Bool) (rd : Reg) (o : Operand2) (s : State) : Host.Outcome State Fault Refusal :=
  execArm c (fun s => s.aluMove id sf rd o) s

/-- BIC (R215). -/
def execBic (c : Cond) (sf : Bool) (rn rd : Reg) (o : Operand2) (s : State) : Host.Outcome State Fault Refusal :=
  execArm c (fun s => s.aluLogical (fun a b => a &&& ~~~b) sf rn rd o) s

/-- MVN (R216). -/
def execMvn (c : Cond) (sf : Bool) (rd : Reg) (o : Operand2) (s : State) : Host.Outcome State Fault Refusal :=
  execArm c (fun s => s.aluMove (~~~·) sf rd o) s

end Sys2Proof.Machine
end

