-- ==== Sys2Proof/Machine/ArmMul.lean ====
section
/-! DEFINITION. The six multiplies (R240 to R246 of 44_arm_multiply.md). C and V stay (R240 (b); log 6); the architecture's
operand restrictions are not enforced (R240 (d)). -/

namespace Sys2Proof.Machine

/-- A 32-bit multiply result: the register, and N and Z with S = 1 (R240). -/
def State.mulWrite (s : State) (sf : Bool) (rd : Reg) (result : Word) : State :=
  let s1 := s.writeReg rd result
  if sf then s1.updateFlags (mulFlags result) else s1

/-- A 64-bit multiply result: RdLo, then RdHi, and N and Z with S = 1 (R240). -/
def State.mullWrite (s : State) (sf : Bool) (rdHi rdLo : Reg) (p : BitVec 64) : State :=
  let s1 := (s.writeReg rdLo (p.extractLsb' 0 32)).writeReg rdHi (p.extractLsb' 32 32)
  if sf then s1.updateFlags (mullFlags p) else s1

/-- The product of two words read as unsigned (R243). -/
def umul (a b : Word) : BitVec 64 := BitVec.ofNat 64 (a.toNat * b.toNat)

/-- The product of two words read as signed, modulo 2^64 (R245). -/
def smul (a b : Word) : BitVec 64 := BitVec.ofInt 64 (a.toInt * b.toInt)

/-- The accumulator `x[RdHi] ++ x[RdLo]` (R244, R246). -/
def State.accumulator (s : State) (rdHi rdLo : Reg) : BitVec 64 := s.readReg rdHi ++ s.readReg rdLo

/-- MUL (R241). -/
def execMul (c : Cond) (sf : Bool) (rd rs rm : Reg) (s : State) : Host.Outcome State Fault Refusal :=
  execArm c (fun s => s.mulWrite sf rd (s.readReg rm * s.readReg rs)) s

/-- MLA (R242). -/
def execMla (c : Cond) (sf : Bool) (rd rn rs rm : Reg) (s : State) : Host.Outcome State Fault Refusal :=
  execArm c (fun s => s.mulWrite sf rd (s.readReg rm * s.readReg rs + s.readReg rn)) s

/-- UMULL (R243). -/
def execUmull (c : Cond) (sf : Bool) (rdHi rdLo rs rm : Reg) (s : State) : Host.Outcome State Fault Refusal :=
  execArm c (fun s => s.mullWrite sf rdHi rdLo (umul (s.readReg rm) (s.readReg rs))) s

/-- UMLAL (R244). -/
def execUmlal (c : Cond) (sf : Bool) (rdHi rdLo rs rm : Reg) (s : State) : Host.Outcome State Fault Refusal :=
  execArm c (fun s => s.mullWrite sf rdHi rdLo (umul (s.readReg rm) (s.readReg rs) + s.accumulator rdHi rdLo)) s

/-- SMULL (R245). -/
def execSmull (c : Cond) (sf : Bool) (rdHi rdLo rs rm : Reg) (s : State) : Host.Outcome State Fault Refusal :=
  execArm c (fun s => s.mullWrite sf rdHi rdLo (smul (s.readReg rm) (s.readReg rs))) s

/-- SMLAL (R246). -/
def execSmlal (c : Cond) (sf : Bool) (rdHi rdLo rs rm : Reg) (s : State) : Host.Outcome State Fault Refusal :=
  execArm c (fun s => s.mullWrite sf rdHi rdLo (smul (s.readReg rm) (s.readReg rs) + s.accumulator rdHi rdLo)) s

end Sys2Proof.Machine
end

