-- ==== Sys2Proof/Machine/ArmPsr.lean ====
section
/-! DEFINITION. MRS and MSR (R230 to R235 of 43_arm_psr_transfer.md). -/

namespace Sys2Proof.Machine

/-- `ByteMask(field_mask)`: bit 3 = f, 2 = s, 1 = x, 0 = c (R232). -/
def byteMask (m : BitVec 4) : Word :=
  (if m.getLsbD 3 then 0xFF000000 else 0) ||| (if m.getLsbD 2 then 0x00FF0000 else 0) |||
    (if m.getLsbD 1 then 0x0000FF00 else 0) ||| (if m.getLsbD 0 then 0x000000FF else 0)

/-- `WritableMask` for the CPSR: only the flags in usr mode (R232). -/
def cpsrWritable (mode : BitVec 5) : Word := if privileged mode then 0xF00000FF else 0xF0000000

/-- `WritableMask` for an SPSR (R232). -/
def spsrWritable : Word := 0xF00000FF

/-- `(old & ~mask) | (v & mask)` (R231). -/
def maskedPsr (old : Psr) (v mask : Word) : Psr := .ofWord ((old.toWord &&& ~~~mask) ||| (v &&& mask))

/-- The CPSR write of MSR: the diagnostics of a change of T (R233; log 9) and of an illegal mode (R30; log 8). DESIGN CHOICE: when
one MSR causes both, `unpredictable` stands first; neither rule gives an order (log 8). -/
def State.msrCpsr (s : State) (mask : BitVec 4) (v : Word) : State :=
  let new := maskedPsr s.cpsr v (byteMask mask &&& cpsrWritable s.cpsr.mode)
  let s1 := s.setCpsr new
  let s2 := if new.t = s.cpsr.t then s1 else s1.emitHere (.unpredictable .msrThumb)
  if mask.getLsbD 0 && privileged s.cpsr.mode then s2.noteIllegalMode else s2

/-- The SPSR write of MSR; nothing but a diagnostic in a mode without one (R231, R235; log 7). DESIGN CHOICE: a mode value outside
the seven stored in an SPSR is not reported here, since R30 reports one in CPSR[4:0], which the return from it does; U5 also names the
SPSR mode field (log 8). -/
def State.msrSpsr (s : State) (mask : BitVec 4) (v : Word) : State :=
  match s.spsrOf s.bank with
  | some p => s.setSpsrOf s.bank (maskedPsr p v (byteMask mask &&& spsrWritable))
  | none => s.emitHere (.unpredictable .spsrAccess)

/-- The SPSR read of MRS; the CPSR and a diagnostic in a mode without one (R230, R235; log 7). -/
def State.mrsSpsr (s : State) (rd : Reg) : State :=
  match s.spsrOf s.bank with
  | some p => s.writeReg rd p.toWord
  | none => (s.emitHere (.unpredictable .spsrAccess)).writeReg rd s.cpsr.toWord

/-- MRS (R230). -/
def execMrs (c : Cond) (spsr : Bool) (rd : Reg) (s : State) : Host.Outcome State Fault Refusal :=
  execArm c (fun s => if spsr then s.mrsSpsr rd else s.writeReg rd s.cpsr.toWord) s

/-- MSR (R231). -/
def execMsr (c : Cond) (spsr : Bool) (mask : BitVec 4) (src : MsrOperand) (s : State) : Host.Outcome State Fault Refusal :=
  execArm c (fun s => if spsr then s.msrSpsr mask (s.msrOperand src) else s.msrCpsr mask (s.msrOperand src)) s

end Sys2Proof.Machine
end

