-- ==== Sys2Proof/Machine/ArmSystem.lean ====
section
/-! DEFINITION. SWI, the undefined words and the coprocessor forms (R300 to R309 of 47_arm_swi_coproc.md). -/

namespace Sys2Proof.Machine

/-- `raise SWI`, shared by both states: the return address is the instruction after the SWI, `A + isz` (R300, R387, R427). -/
def State.raiseSwi (s : State) : State := s.takeException .swi (s.r15 - s.iszWord)

/-- SWI (R300). -/
def execSwi (c : Cond) (_comment : BitVec 24) (s : State) : Host.Outcome State Fault Refusal :=
  execArm c (fun s => s.raiseSwi) s

/-- UNDEFINED, halfword format with L = 0 and S = 1: a diagnostic and nothing else (R304; log 10). -/
def execUndefHalf (c : Cond) (_raw : BitVec 28) (s : State) : Host.Outcome State Fault Refusal :=
  execArm c (fun s => s.emitHere .undefinedEncoding) s

/-- UNDEFINED, unassigned words of the multiply space (R304; log 10). -/
def execUndefMul (c : Cond) (_raw : BitVec 28) (s : State) : Host.Outcome State Fault Refusal :=
  execArm c (fun s => s.emitHere .undefinedEncoding) s

/-- UNDEFINED, the architecturally undefined space (R304; log 10). -/
def execUndefMedia (c : Cond) (_raw : BitVec 28) (s : State) : Host.Outcome State Fault Refusal :=
  execArm c (fun s => s.emitHere .undefinedEncoding) s

/-- CDP: a diagnostic and nothing else (R305; log 10). -/
def execCdp (c : Cond) (_opc _crn _crd _cpn : BitVec 4) (_cp : BitVec 3) (_crm : BitVec 4) (s : State) :
    Host.Outcome State Fault Refusal :=
  execArm c (fun s => s.emitHere .coprocessor) s

/-- LDC: no memory access, no write-back (R306; log 10). -/
def execLdc (c : Cond) (_p _u _n _w : Bool) (_rn _crd _cpn : BitVec 4) (_off : BitVec 8) (s : State) :
    Host.Outcome State Fault Refusal :=
  execArm c (fun s => s.emitHere .coprocessor) s

/-- STC: no memory access, no write-back (R307; log 10). -/
def execStc (c : Cond) (_p _u _n _w : Bool) (_rn _crd _cpn : BitVec 4) (_off : BitVec 8) (s : State) :
    Host.Outcome State Fault Refusal :=
  execArm c (fun s => s.emitHere .coprocessor) s

/-- MRC: Rd and the flags are not written (R308; log 10). -/
def execMrc (c : Cond) (_opc : BitVec 3) (_crn _rd _cpn : BitVec 4) (_cp : BitVec 3) (_crm : BitVec 4) (s : State) :
    Host.Outcome State Fault Refusal :=
  execArm c (fun s => s.emitHere .coprocessor) s

/-- MCR (R309; log 10). -/
def execMcr (c : Cond) (_opc : BitVec 3) (_crn _rd _cpn : BitVec 4) (_cp : BitVec 3) (_crm : BitVec 4) (s : State) :
    Host.Outcome State Fault Refusal :=
  execArm c (fun s => s.emitHere .coprocessor) s

end Sys2Proof.Machine
end

