-- ==== Sys2Proof/Machine/ArmTransfer.lean ====
section
/-! DEFINITION. LDR, STR, LDRB, STRB, their user-mode forms, LDRH, STRH, LDRSB, LDRSH (R250 to R255, R260 to R264 of
45_arm_single_transfer.md), and SWP, SWPB (R290, R291 of 46_arm_block_swap.md). -/

namespace Sys2Proof.Machine

/-- A load: the access, the write-back, then the destination, so with Rd = Rn the loaded value wins (R251). -/
def State.loadTransfer (s : State) (load : State → Word → Word × State) (ad : Address) (rn rd : Reg) : State :=
  let (v, s1) := load s ad.ea
  (if ad.wb then s1.writeReg rn ad.eaOff else s1).writeReg rd v

/-- A store: the register is read before the write-back (R252). -/
def State.storeTransfer (s : State) (store : State → Word → Word → State) (ad : Address) (rn rd : Reg) : State :=
  let s1 := store s ad.ea (s.readReg rd)
  if ad.wb then s1.writeReg rn ad.eaOff else s1

/-- LDR (R251). -/
def execLdr (c : Cond) (p u w : Bool) (rn rd : Reg) (off : SdtOffset) (s : State) :
    Host.Outcome State Fault Refusal :=
  execArm c (fun s => s.loadTransfer State.loadWord (s.sdtAddress p u w rn off) rn rd) s

/-- STR (R252). -/
def execStr (c : Cond) (p u w : Bool) (rn rd : Reg) (off : SdtOffset) (s : State) :
    Host.Outcome State Fault Refusal :=
  execArm c (fun s => s.storeTransfer State.storeWord (s.sdtAddress p u w rn off) rn rd) s

/-- LDRB (R253). -/
def execLdrb (c : Cond) (p u w : Bool) (rn rd : Reg) (off : SdtOffset) (s : State) :
    Host.Outcome State Fault Refusal :=
  execArm c (fun s => s.loadTransfer State.loadByte (s.sdtAddress p u w rn off) rn rd) s

/-- STRB (R254). -/
def execStrb (c : Cond) (p u w : Bool) (rn rd : Reg) (off : SdtOffset) (s : State) :
    Host.Outcome State Fault Refusal :=
  execArm c (fun s => s.storeTransfer State.storeByte (s.sdtAddress p u w rn off) rn rd) s

/-- LDRT: as LDR with P = 0 (R255). -/
def execLdrt (c : Cond) (u : Bool) (rn rd : Reg) (off : SdtOffset) (s : State) :
    Host.Outcome State Fault Refusal :=
  execArm c (fun s => s.loadTransfer State.loadWord (s.sdtAddress false u true rn off) rn rd) s

/-- STRT: as STR with P = 0 (R255). -/
def execStrt (c : Cond) (u : Bool) (rn rd : Reg) (off : SdtOffset) (s : State) :
    Host.Outcome State Fault Refusal :=
  execArm c (fun s => s.storeTransfer State.storeWord (s.sdtAddress false u true rn off) rn rd) s

/-- LDRBT: as LDRB with P = 0 (R255). -/
def execLdrbt (c : Cond) (u : Bool) (rn rd : Reg) (off : SdtOffset) (s : State) :
    Host.Outcome State Fault Refusal :=
  execArm c (fun s => s.loadTransfer State.loadByte (s.sdtAddress false u true rn off) rn rd) s

/-- STRBT: as STRB with P = 0 (R255). -/
def execStrbt (c : Cond) (u : Bool) (rn rd : Reg) (off : SdtOffset) (s : State) :
    Host.Outcome State Fault Refusal :=
  execArm c (fun s => s.storeTransfer State.storeByte (s.sdtAddress false u true rn off) rn rd) s

/-- LDRH (R261). -/
def execLdrh (c : Cond) (p u w : Bool) (rn rd : Reg) (off : HsdtOffset) (s : State) :
    Host.Outcome State Fault Refusal :=
  execArm c (fun s => s.loadTransfer State.loadHalf (s.hsdtAddress p u w rn off) rn rd) s

/-- STRH (R262). -/
def execStrh (c : Cond) (p u w : Bool) (rn rd : Reg) (off : HsdtOffset) (s : State) :
    Host.Outcome State Fault Refusal :=
  execArm c (fun s => s.storeTransfer State.storeHalf (s.hsdtAddress p u w rn off) rn rd) s

/-- LDRSB (R263). -/
def execLdrsb (c : Cond) (p u w : Bool) (rn rd : Reg) (off : HsdtOffset) (s : State) :
    Host.Outcome State Fault Refusal :=
  execArm c (fun s => s.loadTransfer State.loadByteSigned (s.hsdtAddress p u w rn off) rn rd) s

/-- LDRSH (R264). -/
def execLdrsh (c : Cond) (p u w : Bool) (rn rd : Reg) (off : HsdtOffset) (s : State) :
    Host.Outcome State Fault Refusal :=
  execArm c (fun s => s.loadTransfer State.loadHalfSigned (s.hsdtAddress p u w rn off) rn rd) s

/-- The swap: the source register is read first, then the memory read, the memory write and the destination (R290, R291). -/
def State.swap (s : State) (load : State → Word → Word × State) (store : State → Word → Word → State) (rn rd rm : Reg) : State :=
  let (tmp, s1) := load s (s.readReg rn)
  (store s1 (s.readReg rn) (s.readReg rm)).writeReg rd tmp

/-- SWP: a rotating read and an aligned write (R290). -/
def execSwp (c : Cond) (rn rd rm : Reg) (s : State) :
    Host.Outcome State Fault Refusal :=
  execArm c (fun s => s.swap State.loadWord State.storeWord rn rd rm) s

/-- SWPB (R291). -/
def execSwpb (c : Cond) (rn rd rm : Reg) (s : State) :
    Host.Outcome State Fault Refusal :=
  execArm c (fun s => s.swap State.loadByte State.storeByte rn rd rm) s

end Sys2Proof.Machine
end

