-- ==== Sys2Proof/Machine/ThumbAlu.lean ====
section
/-! DEFINITION. THUMB formats 1 to 5 (R310 to R341 of 48_thumb_alu.md). -/

namespace Sys2Proof.Machine

/-- A flag-setting logical result into a low register (R310). -/
def State.tLogical (s : State) (rd : LowReg) (r : Word × Option Bool) : State :=
  (s.writeReg (low rd) r.1).updateFlags (logicalFlags r.1 r.2)

/-- A flag-setting arithmetic result into a low register (R310). -/
def State.tArith (s : State) (rd : LowReg) (r : Sum) : State :=
  (s.writeReg (low rd) r.value).updateFlags (arithFlags r)

/-- `x[r]` of a low register (R310). -/
def State.readLow (s : State) (r : LowReg) : Word := s.readReg (low r)

/-- A format 4 shift: the amount is the low byte of Rs, the value is Rd (R324 to R326, R329). -/
def State.tShiftReg (s : State) (ty : ShiftType) (rs rd : LowReg) : State :=
  s.tLogical rd (shiftBy ty (s.readLow rd) (shiftAmount (s.readLow rs)))

/-- LSL by an immediate (R311). -/
def execTLslImm (imm : BitVec 5) (rs rd : LowReg) (s : State) : Host.Outcome State Fault Refusal :=
  execThumb (fun s => s.tLogical rd (shiftImm .lsl (s.readLow rs) imm s.cpsr.c)) s

/-- LSR by an immediate; 0 means 32 (R312). -/
def execTLsrImm (imm : BitVec 5) (rs rd : LowReg) (s : State) : Host.Outcome State Fault Refusal :=
  execThumb (fun s => s.tLogical rd (shiftImm .lsr (s.readLow rs) imm s.cpsr.c)) s

/-- ASR by an immediate; 0 means 32 (R313). -/
def execTAsrImm (imm : BitVec 5) (rs rd : LowReg) (s : State) : Host.Outcome State Fault Refusal :=
  execThumb (fun s => s.tLogical rd (shiftImm .asr (s.readLow rs) imm s.cpsr.c)) s

/-- ADD register (R314). -/
def execTAddReg (rn rs rd : LowReg) (s : State) : Host.Outcome State Fault Refusal :=
  execThumb (fun s => s.tArith rd (sumAdd (s.readLow rs) (s.readLow rn) s.cpsr.c)) s

/-- SUB register (R315). -/
def execTSubReg (rn rs rd : LowReg) (s : State) : Host.Outcome State Fault Refusal :=
  execThumb (fun s => s.tArith rd (sumSub (s.readLow rs) (s.readLow rn) s.cpsr.c)) s

/-- ADD 3-bit immediate (R316). -/
def execTAddImm3 (imm : BitVec 3) (rs rd : LowReg) (s : State) : Host.Outcome State Fault Refusal :=
  execThumb (fun s => s.tArith rd (sumAdd (s.readLow rs) (imm.setWidth 32) s.cpsr.c)) s

/-- SUB 3-bit immediate (R317). -/
def execTSubImm3 (imm : BitVec 3) (rs rd : LowReg) (s : State) : Host.Outcome State Fault Refusal :=
  execThumb (fun s => s.tArith rd (sumSub (s.readLow rs) (imm.setWidth 32) s.cpsr.c)) s

/-- MOV 8-bit immediate: C and V stay (R318). -/
def execTMovImm (rd : LowReg) (imm : BitVec 8) (s : State) : Host.Outcome State Fault Refusal :=
  execThumb (fun s => s.tLogical rd (imm.setWidth 32, none)) s

/-- CMP 8-bit immediate (R319). -/
def execTCmpImm (rd : LowReg) (imm : BitVec 8) (s : State) : Host.Outcome State Fault Refusal :=
  execThumb (fun s => s.updateFlags (arithFlags (sumSub (s.readLow rd) (imm.setWidth 32) s.cpsr.c))) s

/-- ADD 8-bit immediate (R320). -/
def execTAddImm8 (rd : LowReg) (imm : BitVec 8) (s : State) : Host.Outcome State Fault Refusal :=
  execThumb (fun s => s.tArith rd (sumAdd (s.readLow rd) (imm.setWidth 32) s.cpsr.c)) s

/-- SUB 8-bit immediate (R321). -/
def execTSubImm8 (rd : LowReg) (imm : BitVec 8) (s : State) : Host.Outcome State Fault Refusal :=
  execThumb (fun s => s.tArith rd (sumSub (s.readLow rd) (imm.setWidth 32) s.cpsr.c)) s

/-- AND (R322). -/
def execTAnd (rs rd : LowReg) (s : State) : Host.Outcome State Fault Refusal :=
  execThumb (fun s => s.tLogical rd (s.readLow rd &&& s.readLow rs, none)) s

/-- EOR (R323). -/
def execTEor (rs rd : LowReg) (s : State) : Host.Outcome State Fault Refusal :=
  execThumb (fun s => s.tLogical rd (s.readLow rd ^^^ s.readLow rs, none)) s

/-- LSL by a register (R324). -/
def execTLsl (rs rd : LowReg) (s : State) : Host.Outcome State Fault Refusal :=
  execThumb (fun s => s.tShiftReg .lsl rs rd) s

/-- LSR by a register (R325). -/
def execTLsr (rs rd : LowReg) (s : State) : Host.Outcome State Fault Refusal :=
  execThumb (fun s => s.tShiftReg .lsr rs rd) s

/-- ASR by a register (R326). -/
def execTAsr (rs rd : LowReg) (s : State) : Host.Outcome State Fault Refusal :=
  execThumb (fun s => s.tShiftReg .asr rs rd) s

/-- ADC (R327). -/
def execTAdc (rs rd : LowReg) (s : State) : Host.Outcome State Fault Refusal :=
  execThumb (fun s => s.tArith rd (sumAdc (s.readLow rd) (s.readLow rs) s.cpsr.c)) s

/-- SBC (R328). -/
def execTSbc (rs rd : LowReg) (s : State) : Host.Outcome State Fault Refusal :=
  execThumb (fun s => s.tArith rd (sumSbc (s.readLow rd) (s.readLow rs) s.cpsr.c)) s

/-- ROR by a register (R329). -/
def execTRor (rs rd : LowReg) (s : State) : Host.Outcome State Fault Refusal :=
  execThumb (fun s => s.tShiftReg .ror rs rd) s

/-- TST (R330). -/
def execTTst (rs rd : LowReg) (s : State) : Host.Outcome State Fault Refusal :=
  execThumb (fun s => s.updateFlags (logicalFlags (s.readLow rd &&& s.readLow rs) none)) s

/-- NEG (R331). -/
def execTNeg (rs rd : LowReg) (s : State) : Host.Outcome State Fault Refusal :=
  execThumb (fun s => s.tArith rd (sumSub 0 (s.readLow rs) s.cpsr.c)) s

/-- CMP, low registers (R332). -/
def execTCmp (rs rd : LowReg) (s : State) : Host.Outcome State Fault Refusal :=
  execThumb (fun s => s.updateFlags (arithFlags (sumSub (s.readLow rd) (s.readLow rs) s.cpsr.c))) s

/-- CMN (R333). -/
def execTCmn (rs rd : LowReg) (s : State) : Host.Outcome State Fault Refusal :=
  execThumb (fun s => s.updateFlags (arithFlags (sumAdd (s.readLow rd) (s.readLow rs) s.cpsr.c))) s

/-- ORR (R334). -/
def execTOrr (rs rd : LowReg) (s : State) : Host.Outcome State Fault Refusal :=
  execThumb (fun s => s.tLogical rd (s.readLow rd ||| s.readLow rs, none)) s

/-- MUL: C and V stay (R335; log 6). -/
def execTMul (rs rd : LowReg) (s : State) : Host.Outcome State Fault Refusal :=
  execThumb (fun s => s.mulWrite true (low rd) (s.readLow rd * s.readLow rs)) s

/-- BIC (R336). -/
def execTBic (rs rd : LowReg) (s : State) : Host.Outcome State Fault Refusal :=
  execThumb (fun s => s.tLogical rd (s.readLow rd &&& ~~~(s.readLow rs), none)) s

/-- MVN (R337). -/
def execTMvn (rs rd : LowReg) (s : State) : Host.Outcome State Fault Refusal :=
  execThumb (fun s => s.tLogical rd (~~~(s.readLow rs), none)) s

/-- ADD, high registers: no flags (R338). -/
def execTAddHi (rs rd : Reg) (s : State) : Host.Outcome State Fault Refusal :=
  execThumb (fun s => s.writeReg rd (s.readReg rd + s.readReg rs)) s

/-- CMP, high registers (R339). -/
def execTCmpHi (rs rd : Reg) (s : State) : Host.Outcome State Fault Refusal :=
  execThumb (fun s => s.updateFlags (arithFlags (sumSub (s.readReg rd) (s.readReg rs) s.cpsr.c))) s

/-- MOV, high registers: no flags (R340). -/
def execTMovHi (rs rd : Reg) (s : State) : Host.Outcome State Fault Refusal :=
  execThumb (fun s => s.writeReg rd (s.readReg rs)) s

/-- BX (R341). -/
def execTBx (rs : Reg) (s : State) : Host.Outcome State Fault Refusal :=
  execThumb (fun s => s.branchExchange (s.readReg rs)) s

end Sys2Proof.Machine
end

