-- ==== Sys2Proof/Machine/ThumbBranch.lean ====
section
/-! DEFINITION. THUMB formats 16 to 19 and the unassigned halfwords (R386 to R391 of 49_thumb_mem_branch.md). -/

namespace Sys2Proof.Machine

/-- The target of a THUMB branch: `x[15]` plus a signed halfword offset (R386, R388). -/
def State.thumbBranchTarget (s : State) {n : Nat} (off : BitVec n) : Word := s.r15 + (off.signExtend 32 <<< 1)

/-- B with a condition; a failed condition advances (R386). -/
def execTBcond (c : Cond) (off : BitVec 8) (s : State) : Host.Outcome State Fault Refusal :=
  execThumb (fun s => if condPassed s.cpsr c then s.branchTo (s.thumbBranchTarget off) else s) s

/-- SWI (R387). -/
def execTSwi (_value8 : BitVec 8) (s : State) : Host.Outcome State Fault Refusal :=
  execThumb (fun s => s.raiseSwi) s

/-- B (R388). -/
def execTB (off : BitVec 11) (s : State) : Host.Outcome State Fault Refusal :=
  execThumb (fun s => s.branchTo (s.thumbBranchTarget off)) s

/-- BL, first half (R389). -/
def execTBlPrefix (off : BitVec 11) (s : State) : Host.Outcome State Fault Refusal :=
  execThumb (fun s => s.writeReg 14 (s.r15 + (off.signExtend 32 <<< 12))) s

/-- BL, second half: the link is `(A + 2) | 1` (R390). -/
def execTBlSuffix (off : BitVec 11) (s : State) : Host.Outcome State Fault Refusal :=
  execThumb (fun s => (s.branchTo (s.readReg 14 + (off.setWidth 32 <<< 1))).writeReg 14 ((s.r15 - 2) ||| 1)) s

/-- UNDEFINED_T, the rest of 0xB000 to 0xBFFF (R391; log 10). -/
def execTUndefB (_raw : BitVec 12) (s : State) : Host.Outcome State Fault Refusal :=
  execThumb (fun s => s.emitHere .undefinedEncoding) s

/-- UNDEFINED_T, 0xDE00 to 0xDEFF (R391; log 10). -/
def execTUndefDE (_raw : BitVec 8) (s : State) : Host.Outcome State Fault Refusal :=
  execThumb (fun s => s.emitHere .undefinedEncoding) s

/-- UNDEFINED_T, 0xE800 to 0xEFFF (R391; log 10). -/
def execTUndefE8 (_raw : BitVec 11) (s : State) : Host.Outcome State Fault Refusal :=
  execThumb (fun s => s.emitHere .undefinedEncoding) s

end Sys2Proof.Machine
end

