-- ==== Sys2Proof/Machine/ThumbTransfer.lean ====
section
/-! DEFINITION. THUMB formats 6 to 15: loads, stores, address generation, stack, block transfers (R360 to R385 of
49_thumb_mem_branch.md). -/

namespace Sys2Proof.Machine

/-- A load into a low register (R360). -/
def State.tLoad (s : State) (load : State → Word → Word × State) (ea : Word) (rd : LowReg) : State :=
  let (v, s1) := load s ea
  s1.writeReg (low rd) v

/-- A store from a low register (R360). -/
def State.tStore (s : State) (store : State → Word → Word → State) (ea : Word) (rd : LowReg) : State :=
  store s ea (s.readLow rd)

/-- The PC as a data base: bit 1 cleared (R360 (e)). -/
def State.pcBase (s : State) : Word := s.r15 &&& 0xFFFFFFFC

/-- A word offset `x << 2` (R134). -/
def scaled4 {n : Nat} (x : BitVec n) : Word := x.setWidth 32 <<< 2

/-- A halfword offset `x << 1` (R134). -/
def scaled2 {n : Nat} (x : BitVec n) : Word := x.setWidth 32 <<< 1

/-- The address of formats 7 and 8 (R362, R366). -/
def State.regAddress (s : State) (ro rb : LowReg) : Word := s.readLow rb + s.readLow ro

/-- LDR PC-relative (R361). -/
def execTLdrPc (rd : LowReg) (word8 : BitVec 8) (s : State) : Host.Outcome State Fault Refusal :=
  execThumb (fun s => s.tLoad State.loadWord (s.pcBase + scaled4 word8) rd) s

/-- STR with a register offset (R362). -/
def execTStrReg (ro rb rd : LowReg) (s : State) : Host.Outcome State Fault Refusal :=
  execThumb (fun s => s.tStore State.storeWord (s.regAddress ro rb) rd) s

/-- STRB with a register offset (R363). -/
def execTStrbReg (ro rb rd : LowReg) (s : State) : Host.Outcome State Fault Refusal :=
  execThumb (fun s => s.tStore State.storeByte (s.regAddress ro rb) rd) s

/-- LDR with a register offset (R364). -/
def execTLdrReg (ro rb rd : LowReg) (s : State) : Host.Outcome State Fault Refusal :=
  execThumb (fun s => s.tLoad State.loadWord (s.regAddress ro rb) rd) s

/-- LDRB with a register offset (R365). -/
def execTLdrbReg (ro rb rd : LowReg) (s : State) : Host.Outcome State Fault Refusal :=
  execThumb (fun s => s.tLoad State.loadByte (s.regAddress ro rb) rd) s

/-- STRH with a register offset (R366). -/
def execTStrhReg (ro rb rd : LowReg) (s : State) : Host.Outcome State Fault Refusal :=
  execThumb (fun s => s.tStore State.storeHalf (s.regAddress ro rb) rd) s

/-- LDRH with a register offset (R367). -/
def execTLdrhReg (ro rb rd : LowReg) (s : State) : Host.Outcome State Fault Refusal :=
  execThumb (fun s => s.tLoad State.loadHalf (s.regAddress ro rb) rd) s

/-- LDSB with a register offset (R368). -/
def execTLdsbReg (ro rb rd : LowReg) (s : State) : Host.Outcome State Fault Refusal :=
  execThumb (fun s => s.tLoad State.loadByteSigned (s.regAddress ro rb) rd) s

/-- LDSH with a register offset (R369). -/
def execTLdshReg (ro rb rd : LowReg) (s : State) : Host.Outcome State Fault Refusal :=
  execThumb (fun s => s.tLoad State.loadHalfSigned (s.regAddress ro rb) rd) s

/-- STR with an immediate offset (R370). -/
def execTStrImm (imm : BitVec 5) (rb rd : LowReg) (s : State) : Host.Outcome State Fault Refusal :=
  execThumb (fun s => s.tStore State.storeWord (s.readLow rb + scaled4 imm) rd) s

/-- LDR with an immediate offset (R371). -/
def execTLdrImm (imm : BitVec 5) (rb rd : LowReg) (s : State) : Host.Outcome State Fault Refusal :=
  execThumb (fun s => s.tLoad State.loadWord (s.readLow rb + scaled4 imm) rd) s

/-- STRB with an immediate offset (R372). -/
def execTStrbImm (imm : BitVec 5) (rb rd : LowReg) (s : State) : Host.Outcome State Fault Refusal :=
  execThumb (fun s => s.tStore State.storeByte (s.readLow rb + imm.setWidth 32) rd) s

/-- LDRB with an immediate offset (R373). -/
def execTLdrbImm (imm : BitVec 5) (rb rd : LowReg) (s : State) : Host.Outcome State Fault Refusal :=
  execThumb (fun s => s.tLoad State.loadByte (s.readLow rb + imm.setWidth 32) rd) s

/-- STRH with an immediate offset (R374). -/
def execTStrhImm (imm : BitVec 5) (rb rd : LowReg) (s : State) : Host.Outcome State Fault Refusal :=
  execThumb (fun s => s.tStore State.storeHalf (s.readLow rb + scaled2 imm) rd) s

/-- LDRH with an immediate offset (R375). -/
def execTLdrhImm (imm : BitVec 5) (rb rd : LowReg) (s : State) : Host.Outcome State Fault Refusal :=
  execThumb (fun s => s.tLoad State.loadHalf (s.readLow rb + scaled2 imm) rd) s

/-- STR SP-relative (R376). -/
def execTStrSp (rd : LowReg) (word8 : BitVec 8) (s : State) : Host.Outcome State Fault Refusal :=
  execThumb (fun s => s.tStore State.storeWord (s.readReg 13 + scaled4 word8) rd) s

/-- LDR SP-relative (R377). -/
def execTLdrSp (rd : LowReg) (word8 : BitVec 8) (s : State) : Host.Outcome State Fault Refusal :=
  execThumb (fun s => s.tLoad State.loadWord (s.readReg 13 + scaled4 word8) rd) s

/-- ADD Rd, PC (R378). -/
def execTAddPc (rd : LowReg) (word8 : BitVec 8) (s : State) : Host.Outcome State Fault Refusal :=
  execThumb (fun s => s.writeReg (low rd) (s.pcBase + scaled4 word8)) s

/-- ADD Rd, SP (R379). -/
def execTAddSp (rd : LowReg) (word8 : BitVec 8) (s : State) : Host.Outcome State Fault Refusal :=
  execThumb (fun s => s.writeReg (low rd) (s.readReg 13 + scaled4 word8)) s

/-- ADD SP, #imm (R380). -/
def execTAddSpImm (sword7 : BitVec 7) (s : State) : Host.Outcome State Fault Refusal :=
  execThumb (fun s => s.writeReg 13 (s.readReg 13 + scaled4 sword7)) s

/-- ADD SP, #-imm (R381). -/
def execTSubSpImm (sword7 : BitVec 7) (s : State) : Host.Outcome State Fault Refusal :=
  execThumb (fun s => s.writeReg 13 (s.readReg 13 - scaled4 sword7)) s

/-- The registers PUSH stores: the list, then LR (R382). -/
def pushList (lr : Bool) (list : BitVec 8) : List Reg := lowRegList list ++ (if lr then [14] else [])

/-- The registers POP loads: the list, then PC (R383). -/
def popList (pc : Bool) (list : BitVec 8) : List Reg := lowRegList list ++ (if pc then [15] else [])

/-- PUSH of a non-empty list (R382). -/
def State.pushRegs (s : State) (rs : List Reg) : State :=
  let start := s.readReg 13 - BitVec.ofNat 32 (4 * rs.length)
  (s.writeWords start (rs.map s.readReg)).writeReg 13 start

/-- POP of a non-empty list (R383). -/
def State.popRegs (s : State) (rs : List Reg) : State :=
  let sp := s.readReg 13
  let (vs, s1) := s.readWords sp rs.length
  (s1.writeRegs s.bank rs vs).writeReg 13 (sp + BitVec.ofNat 32 (4 * rs.length))

/-- PUSH with nothing to store: R15 at SP - 0x40 (R284, R382; log 12). -/
def State.pushEmpty (s : State) : State :=
  let start := s.readReg 13 - 0x40
  (s.noteEmptyList.memWrite start 4 s.r15).writeReg 13 start

/-- A block load of R15 alone from the base, which goes up by 0x40 (R284, R383, R385; log 12). -/
def State.loadPcAlone (s : State) (rb : Reg) : State :=
  let base := s.readReg rb
  let (v, s1) := s.noteEmptyList.memRead base 4
  (s1.writeReg rb (base + 0x40)).branchTo v

/-- The values STMIA stores: Rb in the list and not first is stored as `final` (R384). -/
def State.stmiaValues (s : State) (rb : Reg) (final : Word) : Bool → List Reg → List Word
  | _, [] => []
  | first, r :: rs => (if r == rb && !first then final else s.readReg r) :: s.stmiaValues rb final false rs

/-- STMIA of a non-empty list (R384). -/
def State.stmiaList (s : State) (rb : Reg) (rs : List Reg) : State :=
  let base := s.readReg rb
  let final := base + BitVec.ofNat 32 (4 * rs.length)
  (s.writeWords base (s.stmiaValues rb final true rs)).writeReg rb final

/-- STMIA of an empty list: R15 at the base (R284, R384; log 12). -/
def State.stmiaEmpty (s : State) (rb : Reg) : State :=
  let base := s.readReg rb
  (s.noteEmptyList.memWrite base 4 s.r15).writeReg rb (base + 0x40)

/-- LDMIA of a non-empty list: the write-back, then the loads (R385). -/
def State.ldmiaList (s : State) (rb : Reg) (rs : List Reg) : State :=
  let base := s.readReg rb
  let (vs, s1) := s.readWords base rs.length
  (s1.writeReg rb (base + BitVec.ofNat 32 (4 * rs.length))).writeRegs s.bank rs vs

/-- PUSH (R382). -/
def execTPush (lr : Bool) (list : BitVec 8) (s : State) : Host.Outcome State Fault Refusal :=
  execThumb (fun s => if list = 0 ∧ lr = false then s.pushEmpty else s.pushRegs (pushList lr list)) s

/-- POP (R383). -/
def execTPop (pc : Bool) (list : BitVec 8) (s : State) : Host.Outcome State Fault Refusal :=
  execThumb (fun s => if list = 0 ∧ pc = false then s.loadPcAlone 13 else s.popRegs (popList pc list)) s

/-- STMIA (R384). -/
def execTStmia (rb : LowReg) (list : BitVec 8) (s : State) : Host.Outcome State Fault Refusal :=
  execThumb (fun s => if list = 0 then s.stmiaEmpty (low rb) else s.stmiaList (low rb) (lowRegList list)) s

/-- LDMIA (R385). -/
def execTLdmia (rb : LowReg) (list : BitVec 8) (s : State) : Host.Outcome State Fault Refusal :=
  execThumb (fun s => if list = 0 then s.loadPcAlone (low rb) else s.ldmiaList (low rb) (lowRegList list)) s

end Sys2Proof.Machine
end

