-- ==== Sys2Proof/Machine/Dispatch.lean ====
section
/-! DEFINITION. From an instruction to its meaning: one arm per row of opcode_table.json, in the table's order. -/

namespace Sys2Proof.Machine

def exec (i : Instr) (s : State) : Host.Outcome State Fault Refusal :=
  match i with
  | .bx c rn => Sys2Proof.Machine.execBx c rn s
  | .mul c sf rd rs rm => Sys2Proof.Machine.execMul c sf rd rs rm s
  | .mla c sf rd rn rs rm => Sys2Proof.Machine.execMla c sf rd rn rs rm s
  | .umull c sf rdHi rdLo rs rm => Sys2Proof.Machine.execUmull c sf rdHi rdLo rs rm s
  | .umlal c sf rdHi rdLo rs rm => Sys2Proof.Machine.execUmlal c sf rdHi rdLo rs rm s
  | .smull c sf rdHi rdLo rs rm => Sys2Proof.Machine.execSmull c sf rdHi rdLo rs rm s
  | .smlal c sf rdHi rdLo rs rm => Sys2Proof.Machine.execSmlal c sf rdHi rdLo rs rm s
  | .swp c rn rd rm => Sys2Proof.Machine.execSwp c rn rd rm s
  | .swpb c rn rd rm => Sys2Proof.Machine.execSwpb c rn rd rm s
  | .strh c p u w rn rd off => Sys2Proof.Machine.execStrh c p u w rn rd off s
  | .ldrh c p u w rn rd off => Sys2Proof.Machine.execLdrh c p u w rn rd off s
  | .ldrsb c p u w rn rd off => Sys2Proof.Machine.execLdrsb c p u w rn rd off s
  | .ldrsh c p u w rn rd off => Sys2Proof.Machine.execLdrsh c p u w rn rd off s
  | .undefHalf c raw => Sys2Proof.Machine.execUndefHalf c raw s
  | .undefMul c raw => Sys2Proof.Machine.execUndefMul c raw s
  | .mrs c spsr rd => Sys2Proof.Machine.execMrs c spsr rd s
  | .msr c spsr mask src => Sys2Proof.Machine.execMsr c spsr mask src s
  | .and c sf rn rd o => Sys2Proof.Machine.execAnd c sf rn rd o s
  | .eor c sf rn rd o => Sys2Proof.Machine.execEor c sf rn rd o s
  | .sub c sf rn rd o => Sys2Proof.Machine.execSub c sf rn rd o s
  | .rsb c sf rn rd o => Sys2Proof.Machine.execRsb c sf rn rd o s
  | .add c sf rn rd o => Sys2Proof.Machine.execAdd c sf rn rd o s
  | .adc c sf rn rd o => Sys2Proof.Machine.execAdc c sf rn rd o s
  | .sbc c sf rn rd o => Sys2Proof.Machine.execSbc c sf rn rd o s
  | .rsc c sf rn rd o => Sys2Proof.Machine.execRsc c sf rn rd o s
  | .tst c rn o => Sys2Proof.Machine.execTst c rn o s
  | .teq c rn o => Sys2Proof.Machine.execTeq c rn o s
  | .cmp c rn o => Sys2Proof.Machine.execCmp c rn o s
  | .cmn c rn o => Sys2Proof.Machine.execCmn c rn o s
  | .orr c sf rn rd o => Sys2Proof.Machine.execOrr c sf rn rd o s
  | .mov c sf rd o => Sys2Proof.Machine.execMov c sf rd o s
  | .bic c sf rn rd o => Sys2Proof.Machine.execBic c sf rn rd o s
  | .mvn c sf rd o => Sys2Proof.Machine.execMvn c sf rd o s
  | .undefMedia c raw => Sys2Proof.Machine.execUndefMedia c raw s
  | .str c p u w rn rd off => Sys2Proof.Machine.execStr c p u w rn rd off s
  | .ldr c p u w rn rd off => Sys2Proof.Machine.execLdr c p u w rn rd off s
  | .strb c p u w rn rd off => Sys2Proof.Machine.execStrb c p u w rn rd off s
  | .ldrb c p u w rn rd off => Sys2Proof.Machine.execLdrb c p u w rn rd off s
  | .strt c u rn rd off => Sys2Proof.Machine.execStrt c u rn rd off s
  | .ldrt c u rn rd off => Sys2Proof.Machine.execLdrt c u rn rd off s
  | .strbt c u rn rd off => Sys2Proof.Machine.execStrbt c u rn rd off s
  | .ldrbt c u rn rd off => Sys2Proof.Machine.execLdrbt c u rn rd off s
  | .stm c p u sb w rn list => Sys2Proof.Machine.execStm c p u sb w rn list s
  | .ldm c p u sb w rn list => Sys2Proof.Machine.execLdm c p u sb w rn list s
  | .b c off => Sys2Proof.Machine.execB c off s
  | .bl c off => Sys2Proof.Machine.execBl c off s
  | .stc c p u n w rn crd cpn off => Sys2Proof.Machine.execStc c p u n w rn crd cpn off s
  | .ldc c p u n w rn crd cpn off => Sys2Proof.Machine.execLdc c p u n w rn crd cpn off s
  | .cdp c opc crn crd cpn cp crm => Sys2Proof.Machine.execCdp c opc crn crd cpn cp crm s
  | .mcr c opc crn rd cpn cp crm => Sys2Proof.Machine.execMcr c opc crn rd cpn cp crm s
  | .mrc c opc crn rd cpn cp crm => Sys2Proof.Machine.execMrc c opc crn rd cpn cp crm s
  | .swi c comment => Sys2Proof.Machine.execSwi c comment s
  | .tAddReg rn rs rd => Sys2Proof.Machine.execTAddReg rn rs rd s
  | .tSubReg rn rs rd => Sys2Proof.Machine.execTSubReg rn rs rd s
  | .tAddImm3 imm rs rd => Sys2Proof.Machine.execTAddImm3 imm rs rd s
  | .tSubImm3 imm rs rd => Sys2Proof.Machine.execTSubImm3 imm rs rd s
  | .tLslImm imm rs rd => Sys2Proof.Machine.execTLslImm imm rs rd s
  | .tLsrImm imm rs rd => Sys2Proof.Machine.execTLsrImm imm rs rd s
  | .tAsrImm imm rs rd => Sys2Proof.Machine.execTAsrImm imm rs rd s
  | .tMovImm rd imm => Sys2Proof.Machine.execTMovImm rd imm s
  | .tCmpImm rd imm => Sys2Proof.Machine.execTCmpImm rd imm s
  | .tAddImm8 rd imm => Sys2Proof.Machine.execTAddImm8 rd imm s
  | .tSubImm8 rd imm => Sys2Proof.Machine.execTSubImm8 rd imm s
  | .tAnd rs rd => Sys2Proof.Machine.execTAnd rs rd s
  | .tEor rs rd => Sys2Proof.Machine.execTEor rs rd s
  | .tLsl rs rd => Sys2Proof.Machine.execTLsl rs rd s
  | .tLsr rs rd => Sys2Proof.Machine.execTLsr rs rd s
  | .tAsr rs rd => Sys2Proof.Machine.execTAsr rs rd s
  | .tAdc rs rd => Sys2Proof.Machine.execTAdc rs rd s
  | .tSbc rs rd => Sys2Proof.Machine.execTSbc rs rd s
  | .tRor rs rd => Sys2Proof.Machine.execTRor rs rd s
  | .tTst rs rd => Sys2Proof.Machine.execTTst rs rd s
  | .tNeg rs rd => Sys2Proof.Machine.execTNeg rs rd s
  | .tCmp rs rd => Sys2Proof.Machine.execTCmp rs rd s
  | .tCmn rs rd => Sys2Proof.Machine.execTCmn rs rd s
  | .tOrr rs rd => Sys2Proof.Machine.execTOrr rs rd s
  | .tMul rs rd => Sys2Proof.Machine.execTMul rs rd s
  | .tBic rs rd => Sys2Proof.Machine.execTBic rs rd s
  | .tMvn rs rd => Sys2Proof.Machine.execTMvn rs rd s
  | .tAddHi rs rd => Sys2Proof.Machine.execTAddHi rs rd s
  | .tCmpHi rs rd => Sys2Proof.Machine.execTCmpHi rs rd s
  | .tMovHi rs rd => Sys2Proof.Machine.execTMovHi rs rd s
  | .tBx rs => Sys2Proof.Machine.execTBx rs s
  | .tLdrPc rd word8 => Sys2Proof.Machine.execTLdrPc rd word8 s
  | .tStrReg ro rb rd => Sys2Proof.Machine.execTStrReg ro rb rd s
  | .tStrbReg ro rb rd => Sys2Proof.Machine.execTStrbReg ro rb rd s
  | .tLdrReg ro rb rd => Sys2Proof.Machine.execTLdrReg ro rb rd s
  | .tLdrbReg ro rb rd => Sys2Proof.Machine.execTLdrbReg ro rb rd s
  | .tStrhReg ro rb rd => Sys2Proof.Machine.execTStrhReg ro rb rd s
  | .tLdrhReg ro rb rd => Sys2Proof.Machine.execTLdrhReg ro rb rd s
  | .tLdsbReg ro rb rd => Sys2Proof.Machine.execTLdsbReg ro rb rd s
  | .tLdshReg ro rb rd => Sys2Proof.Machine.execTLdshReg ro rb rd s
  | .tStrImm imm rb rd => Sys2Proof.Machine.execTStrImm imm rb rd s
  | .tLdrImm imm rb rd => Sys2Proof.Machine.execTLdrImm imm rb rd s
  | .tStrbImm imm rb rd => Sys2Proof.Machine.execTStrbImm imm rb rd s
  | .tLdrbImm imm rb rd => Sys2Proof.Machine.execTLdrbImm imm rb rd s
  | .tStrhImm imm rb rd => Sys2Proof.Machine.execTStrhImm imm rb rd s
  | .tLdrhImm imm rb rd => Sys2Proof.Machine.execTLdrhImm imm rb rd s
  | .tStrSp rd word8 => Sys2Proof.Machine.execTStrSp rd word8 s
  | .tLdrSp rd word8 => Sys2Proof.Machine.execTLdrSp rd word8 s
  | .tAddPc rd word8 => Sys2Proof.Machine.execTAddPc rd word8 s
  | .tAddSp rd word8 => Sys2Proof.Machine.execTAddSp rd word8 s
  | .tAddSpImm sword7 => Sys2Proof.Machine.execTAddSpImm sword7 s
  | .tSubSpImm sword7 => Sys2Proof.Machine.execTSubSpImm sword7 s
  | .tPush lr list => Sys2Proof.Machine.execTPush lr list s
  | .tPop pc list => Sys2Proof.Machine.execTPop pc list s
  | .tUndefB raw => Sys2Proof.Machine.execTUndefB raw s
  | .tStmia rb list => Sys2Proof.Machine.execTStmia rb list s
  | .tLdmia rb list => Sys2Proof.Machine.execTLdmia rb list s
  | .tSwi value8 => Sys2Proof.Machine.execTSwi value8 s
  | .tUndefDE raw => Sys2Proof.Machine.execTUndefDE raw s
  | .tBcond c off => Sys2Proof.Machine.execTBcond c off s
  | .tB off => Sys2Proof.Machine.execTB off s
  | .tUndefE8 raw => Sys2Proof.Machine.execTUndefE8 raw s
  | .tBlPrefix off => Sys2Proof.Machine.execTBlPrefix off s
  | .tBlSuffix off => Sys2Proof.Machine.execTBlSuffix off s

end Sys2Proof.Machine
end

