-- ==== Sys2Proof/Machine/Dma.lean ====
section
/-! DEFINITION. The DMA engine (R463 to R474 of 60_exceptions.md). -/

namespace Sys2Proof.Machine

/-- `DstStep(ctl, unit)` (R468). -/
def dmaDstStep (ctl : BitVec 2) (unit : Nat) : Word :=
  match ctl.toNat with
  | 1 => -(BitVec.ofNat 32 unit)
  | 2 => 0
  | _ => BitVec.ofNat 32 unit

/-- `SrcStep(ctl, unit)`; the reserved control 3 increments (R468). -/
def dmaSrcStep (ctl : BitVec 2) (unit : Nat) : Word :=
  match ctl.toNat with
  | 1 => -(BitVec.ofNat 32 unit)
  | 2 => 0
  | _ => BitVec.ofNat 32 unit

/-- Replace a channel. -/
def State.setDma (s : State) (n : Fin 4) (ch : DmaChannel) : State := { s with dma := s.dma.set n ch }

/-- `unit` of R467. -/
def DmaChannel.unit (ch : DmaChannel) : Nat := if ch.size then 4 else 2

/-- One turn of the loop of R467: read, write, step the destination, step the source, count down. The control fields are read
at each use, `unit` once (R467; log 19). -/
def State.dmaUnit (s : State) (n : Fin 4) (unit : Nat) : State :=
  let (v, s1) := s.memRead s.dma[n].curSrc unit
  let s2 := s1.memWrite s1.dma[n].curDst unit v
  let ch := s2.dma[n]
  s2.setDma n { ch with curDst := ch.curDst + dmaDstStep ch.dstCtl unit, curSrc := ch.curSrc + dmaSrcStep ch.srcCtl unit,
                        remaining := ch.remaining - 1 }

/-- The loop of R467: turns while units are left and the channel is enabled, at most `k` of them. A write of the transfer to its own
enable bit is a write as any other: a 1 to 0 change stops the channel and nothing further is transferred (R472), once the unit in
progress is finished (DESIGN CHOICE, log 19). A turn of an enabled channel counts down or leaves it disabled (`State.dmaUnit_counts`),
so the units left bound the turns and the loop always ends (log 18). -/
def State.dmaLoop (n : Fin 4) (unit : Nat) : Nat → State → State
  | 0, s => s
  | k + 1, s => if s.dma[n].remaining ≠ 0 ∧ s.dma[n].enable then State.dmaLoop n unit k (s.dmaUnit n unit) else s

/-- `Complete(n)` (R469). -/
def State.dmaComplete (s : State) (n : Fin 4) : State :=
  let s1 := s.requestIf s.dma[n].irq (8 + n)
  let ch := s1.dma[n]
  if ch.repeats ∧ ch.timing ≠ 0 then
    s1.setDma n { ch with remaining := dmaCount n ch.cntL,
                          curDst := if ch.dstCtl = 3 then ch.dad &&& dmaDstMask n else ch.curDst }
  else s1.setDma n { ch with cntH := ch.cntH &&& 0x7FFF }

/-- `RunChannel(n)` (R467), with the diagnostic of source control 3 at its start (R468). A transfer that stopped itself with units
left does not complete: no end IRQ, no re-arming (DESIGN CHOICE, log 19). -/
def State.dmaRun (s : State) (n : Fin 4) : State :=
  let ch := s.dma[n]
  let s1 := if ch.srcCtl = 3 then s.emit (.unpredictable .dmaSourceControl) (BitVec.ofNat 32 n) else s
  let s2 := State.dmaLoop n ch.unit ch.remaining s1
  if s2.dma[n].remaining = 0 then s2.dmaComplete n else s2

/-- The countdown of the startup delay (R464, R474). -/
def DmaChannel.countDown (ch : DmaChannel) (c : Nat) : DmaChannel :=
  if ch.enable ∧ 0 < ch.delay then { ch with delay := ch.delay - c } else ch

/-- Whether an enabled channel starts in this phase (R465, R474). -/
def DmaChannel.starts (ch : DmaChannel) (vblankPulse hblankPulse : Bool) : Bool :=
  ch.enable && ch.delay == 0 && (ch.timing == 0 || (ch.timing == 1 && vblankPulse) || (ch.timing == 2 && hblankPulse))

/-- `go[n] <- 0`, the end of a due channel's turn in a DMA phase (R474). -/
def State.dmaDone (s : State) (n : Fin 4) : State := s.setDma n { s.dma[n] with go := false }

/-- The channels in priority order, those that are due and still enabled; for the others `go[n] <- 0` changes nothing (R471, R474). -/
def State.dmaRunAll (s : State) : List (Fin 4) → State
  | [] => s
  | n :: rest =>
    if s.dma[n].go then ((if s.dma[n].enable then s.dmaRun n else s).dmaDone n).dmaRunAll rest else s.dmaRunAll rest

/-- A channel at the start of a DMA phase: its delay counted down, its `go` bit computed (R474). -/
def DmaChannel.schedule (ch : DmaChannel) (c : Nat) (vblankPulse hblankPulse : Bool) : DmaChannel :=
  let ch' := ch.countDown c
  { ch' with go := ch'.starts vblankPulse hblankPulse }

/-- The delays and the `go` bits of a DMA phase, for all channels before any runs (R474). -/
def State.dmaSchedule (s : State) (c : Nat) : State :=
  { s with
    dma := #v[s.dma[0].schedule c s.vblankPulse s.hblankPulse, s.dma[1].schedule c s.vblankPulse s.hblankPulse,
              s.dma[2].schedule c s.vblankPulse s.hblankPulse, s.dma[3].schedule c s.vblankPulse s.hblankPulse]
    vblankPulse := false, hblankPulse := false }

/-- `DmaAdvance(c)` (R474). -/
def State.dmaAdvance (s : State) (c : Nat) : State := (s.dmaSchedule c).dmaRunAll [0, 1, 2, 3]

end Sys2Proof.Machine
end

