-- ==== Sys2Proof/Machine/Keys.lean ====
section
/-! DEFINITION. Key input (R498, R499 of 60_exceptions.md). -/

namespace Sys2Proof.Machine

/-- The condition of KEYCNT on the pressed buttons: AND with bit 15, else OR (R499). -/
def keyCondition (keycnt : Half) (pressed : BitVec 10) : Bool :=
  let sel := keycnt.extractLsb' 0 10
  if keycnt.getLsbD 15 then pressed &&& sel == sel else pressed &&& sel != 0

/-- `KeyChange(new_state)` (R499). -/
def State.keyChange (s : State) (new : BitVec 10) : State :=
  { s with keyState := new }.requestIf (s.keycnt.getLsbD 14 && keyCondition s.keycnt new) 12

/-- The key sample of a system step: the host's next value, if it differs from the stored one a key change (R500; log 23). -/
def State.sampleKeys (s : State) : State :=
  match s.keyInput with
  | [] => s
  | k :: rest =>
    let s1 := { s with keyInput := rest }
    if k = s.keyState then s1 else s1.keyChange k

end Sys2Proof.Machine
end

