-- ==== Sys2Proof/Machine/Lcd.lean ====
section
/-! DEFINITION. The LCD controller: the scanline state machine (R489 to R492 of 60_exceptions.md) and the rendering rules
(R494 to R496). -/

namespace Sys2Proof.Machine

/-! ## Rendering: memory is read directly, without diagnostics (R494) -/

/-- `VramByte(o)`: 0 beyond the 96 KiB (R494). -/
def State.vramByte (s : State) (o : Nat) : Byte := if o < 0x18000 then Memory.read s.mem (0x06000000 + o) else 0

/-- `VramHalf(o)`. -/
def State.vramHalf (s : State) (o : Nat) : Half := s.vramByte (o + 1) ++ s.vramByte o

/-- `PaletteHalf(o)`. -/
def State.paletteHalf (s : State) (o : Nat) : Half :=
  Memory.read s.mem (0x05000000 + o + 1) ++ Memory.read s.mem (0x05000000 + o)

/-- Fields of BGnCNT (R497). -/
def bgPriority (v : Half) : Nat := (v.extractLsb' 0 2).toNat
/-- `char_base` (R497). -/
def bgCharBase (v : Half) : Nat := (v.extractLsb' 2 2).toNat
/-- Colour depth: true for 8 bpp (R497). -/
def bgEightBpp (v : Half) : Bool := v.getLsbD 7
/-- `screen_base` (R497). -/
def bgScreenBase (v : Half) : Nat := (v.extractLsb' 8 5).toNat
/-- The map size of `screen_size` (R494, R497). -/
def bgSize (v : Half) : Nat × Nat :=
  match (v.extractLsb' 14 2).toNat with
  | 0 => (256, 256) | 1 => (512, 256) | 2 => (256, 512) | _ => (512, 512)

/-- `pixel_n` of background n at (x, y) in mode 0; none for transparent (R494). -/
def State.bgPixel (s : State) (n : Fin 4) (x y : Nat) : Option Half :=
  let cnt := s.lcd.bgcnt[n]
  let w := (bgSize cnt).1
  let h := (bgSize cnt).2
  let adjX := (x + s.lcd.bgXofs[n].toNat) % w
  let adjY := (y + s.lcd.bgYofs[n].toNat) % h
  let block := (if adjX ≥ 256 then 1 else 0) + (if adjY ≥ 256 then (if w = 512 then 2 else 1) else 0)
  let lx := adjX % 256
  let ly := adjY % 256
  let entry := s.vramHalf ((bgScreenBase cnt + block) * 2048 + (lx / 8) * 2 + (ly / 8) * 64)
  let tile := (entry.extractLsb' 0 10).toNat
  let palBank := (entry.extractLsb' 12 4).toNat
  let col := if entry.getLsbD 10 then 7 - lx % 8 else lx % 8
  let row := if entry.getLsbD 11 then 7 - ly % 8 else ly % 8
  if bgEightBpp cnt then
    let e := (s.vramByte (bgCharBase cnt * 16384 + tile * 64 + row * 8 + col)).toNat
    if e = 0 then none else some (s.paletteHalf (e * 2))
  else
    let b := s.vramByte (bgCharBase cnt * 16384 + tile * 32 + row * 4 + col / 2)
    let e := (if col % 2 = 0 then b.extractLsb' 0 4 else b.extractLsb' 4 4).toNat
    if e = 0 then none else some (s.paletteHalf ((palBank * 16 + e) * 2))

/-- Composition: the non-transparent enabled background with the smallest (priority, n); `best` is the one found so far
(R494). -/
def State.compose (s : State) (x y : Nat) : List (Fin 4) → Option (Nat × Half) → Option (Nat × Half)
  | [], best => best
  | n :: rest, best =>
    let here :=
      if s.lcd.dispcnt.getLsbD (8 + n) then
        (s.bgPixel n x y).map fun colour => (bgPriority s.lcd.bgcnt[n], colour)
      else none
    match here, best with
    | none, _ => s.compose x y rest best
    | some a, none => s.compose x y rest (some a)
    | some a, some b => s.compose x y rest (if a.1 < b.1 then some a else some b)

/-- The backdrop: pixel 0 of palette RAM (R494). -/
def State.backdrop (s : State) : Half := s.paletteHalf 0

/-- The colour of a pixel by video mode; modes 1, 2, 6, 7 draw the backdrop (R494, R495). -/
def State.pixelColour (s : State) (x y : Nat) : Half :=
  let frame := if s.lcd.dispcnt.getLsbD 4 then 0xA000 else 0
  match (s.lcd.dispcnt.extractLsb' 0 3).toNat with
  | 0 =>
    match s.compose x y [0, 1, 2, 3] none with
    | some (_, colour) => colour
    | none => s.backdrop
  | 3 => s.vramHalf ((y * 240 + x) * 2)
  | 4 => s.paletteHalf ((s.vramByte (frame + y * 240 + x)).toNat * 2)
  | 5 => if x < 160 ∧ y < 128 then s.vramHalf (frame + (y * 160 + x) * 2) else s.backdrop
  | _ => s.backdrop

/-- `RenderScanline(y)`: 240 calls of `put_pixel` in ascending x, bit 15 of the colour cleared (R496). -/
def State.renderScanline (s : State) (y : Nat) : State :=
  { s with
    pixels := (List.range 240).foldl (fun acc x => ⟨x, y, (s.pixelColour x y).extractLsb' 0 15⟩ :: acc) s.pixels }

/-! ## The scanline state machine -/

/-- A change of the LCD's own registers. -/
def State.mapLcd (s : State) (f : Lcd → Lcd) : State := { s with lcd := f s.lcd }

/-- `HBlankStart()` (R490). -/
def State.hblankStart (s : State) : State :=
  { (s.mapLcd fun l => { l with hblank := true }).requestIf (s.lcd.dispstat.getLsbD 4) 1 with hblankPulse := true }

/-- `VCountCheck()` (R492). -/
def State.vcountCheck (s : State) : State :=
  let m := s.lcd.scanline == (s.lcd.dispstat.extractLsb' 8 8).toNat
  (s.mapLcd fun l => { l with vcountMatch := m }).requestIf (m && s.lcd.dispstat.getLsbD 5) 2

/-- Reaching scanline 160: the flag, the IRQ if enabled, the DMA pulse (R491). -/
def State.vblankStart (s : State) : State :=
  { (s.mapLcd fun l => { l with vblank := true }).requestIf (s.lcd.dispstat.getLsbD 3) 0 with vblankPulse := true }

/-- A visible line is drawn when it ends (R491). -/
def State.drawLine (s : State) : State := if s.lcd.scanline < 160 then s.renderScanline s.lcd.scanline else s

/-- The effect of the scanline just reached: VBlank at 160, the next frame at 228 (R491). -/
def State.reachLine (s : State) : State :=
  if s.lcd.scanline = 160 then s.vblankStart
  else if s.lcd.scanline = 228 then s.mapLcd fun l => { l with scanline := 0, vblank := false }
  else s

/-- `LineWrap()` (R491). -/
def State.lineWrap (s : State) : State :=
  (((s.mapLcd fun l => { l with hblank := false }).drawLine.mapLcd fun l => { l with scanline := l.scanline + 1 }).reachLine).vcountCheck

/-- The HBlank point of a line (R489). -/
def State.hblankPoint (s : State) : State := if s.lcd.cycle = 960 then s.hblankStart else s

/-- The end of a line (R489). -/
def State.endOfLine (s : State) : State :=
  if s.lcd.cycle = 1232 then (s.mapLcd fun l => { l with cycle := 0 }).lineWrap else s

/-- One LCD cycle (R489). -/
def State.lcdCycle (s : State) : State := (s.mapLcd fun l => { l with cycle := l.cycle + 1 }).hblankPoint.endOfLine

/-- `LcdAdvance(c)` (R489). -/
def State.lcdAdvance (s : State) : Nat → State
  | 0 => s
  | c + 1 => s.lcdCycle.lcdAdvance c

end Sys2Proof.Machine
end

