-- ==== Sys2Proof/Machine/Timers.lean ====
section
/-! DEFINITION. The timers (R480 to R485 of 60_exceptions.md). -/

namespace Sys2Proof.Machine

/-- Replace a timer. -/
def State.setTimer (s : State) (n : Fin 4) (t : Timer) : State := { s with timers := s.timers.set n t }

/-- `Tick` of the first timer of a list of consecutive timers, the rest being those it may cascade into (R484). -/
def State.tick (s : State) : List (Fin 4) → State
  | [] => s
  | n :: rest =>
    let t := s.timers[n]
    if t.counter = 0xFFFF then
      let s2 := (s.setTimer n { t with counter := t.reload }).requestIf t.irq (3 + n)
      match rest with
      | [] => s2
      | m :: _ => if s2.timers[m].enable && s2.timers[m].countUp then s2.tick rest else s2
    else s.setTimer n { t with counter := t.counter + 1 }

/-- Timer n and the timers above it. -/
def timersFrom (n : Fin 4) : List (Fin 4) := [0, 1, 2, 3].drop n

/-- `Tick(n)`, `k` times. -/
def State.tickTimes (s : State) (n : Fin 4) : Nat → State
  | 0 => s
  | k + 1 => (s.tick (timersFrom n)).tickTimes n k

/-- The prescaled path of the timers of a list, one after the other: the accumulator takes the cycles, and every full period is a
tick; a timer that is disabled or counts up is passed over (R483). -/
def State.timersRun (s : State) (c : Nat) : List (Fin 4) → State
  | [] => s
  | n :: rest =>
    let t := s.timers[n]
    if t.enable && !t.countUp then
      ((s.setTimer n { t with acc := (t.acc + c) % t.period }).tickTimes n ((t.acc + c) / t.period)).timersRun c rest
    else s.timersRun c rest

/-- The prescaled path of one timer (R483). -/
def State.timerAdvance (s : State) (c : Nat) (n : Fin 4) : State := s.timersRun c [n]

/-- `TimersAdvance(c)` (R483). -/
def State.timersAdvance (s : State) (c : Nat) : State := s.timersRun c [0, 1, 2, 3]

end Sys2Proof.Machine
end

