-- ==== Sys2Proof/Machine/Cycle.lean ====
section
/-! DEFINITION. The CPU step (R150, R155 of 40_cond_shifter_alu.md; R425, R426, R452 of 60_exceptions.md), the system step (R500), and
how a word is put where the next step runs it. -/

namespace Sys2Proof.Machine

open Config (StepKind)

/-- The instruction in pipe.E, decoded by the state bit T (R155). -/
def State.current (s : State) : Instr :=
  if s.cpsr.t then decodeThumb (s.pipeE.setWidth 16) else decodeArm s.pipeE

/-- IRQ entry (R426). -/
def State.irqEntry (s : State) : State :=
  (s.takeException .irq (s.nextExecAddr + 4)).applyPc Exc.irq.vector

/-- Whether the CPU takes an IRQ at the start of a step (R425). -/
def State.irqTaken (s : State) : Bool := s.irqLine && !s.cpsr.i

/-- The kind of an Execute step: a failed condition is a kind of its own (R6; log 20). -/
def State.executeKind (s : State) : StepKind :=
  if condPassed s.cpsr s.current.cond then .execute else .condFailed

/-- Execute (R155): the meaning of the instruction in pipe.E. -/
def State.execute (s : State) : Host.Outcome (State × StepKind) Fault Refusal :=
  match exec s.current s with
  | .next s' => .next (s', s.executeKind)
  | .fault f => .fault f
  | .refused r => .refused r

/-- One CPU step: exactly one of four things, tested in this order (R150). -/
def State.cpuStep (s : State) : Host.Outcome (State × StepKind) Fault Refusal :=
  if s.halted then .next (s, .halted)
  else if s.irqTaken then .next (s.irqEntry, .irqEntry)
  else if !s.pipeValid then .next (s.refill, .refill)
  else s.execute

/-- INSTR_CYCLES(kind) (R6). -/
def cyclesOf (t : Config.Cycles) : StepKind → Nat
  | .execute => t.execute.val
  | .condFailed => t.condFailed.val
  | .refill => t.refill.val
  | .irqEntry => t.irqEntry.val
  | .halted => t.halted.val

/-- The device phases of a system step: LCD, DMA, timers (R500). -/
def State.devices (s : State) (c : Nat) : State := ((s.lcdAdvance c).dmaAdvance c).timersAdvance c

/-- The system step (R500). -/
def State.systemStep (s : State) : Host.Outcome State Fault Refusal :=
  let s0 := s.sampleKeys
  match s0.cpuStep with
  | .next (s1, kind) => .next (s1.devices (cyclesOf s0.params.cycles kind))
  | .fault f => .fault f
  | .refused r => .refused r

/-! ## Putting a word where the next step runs it (log 2) -/

/-- Put a byte of an image or of RAM at an address; nothing in the I/O, save and unmapped ranges, which store no program. A ROM
image grows to hold the byte and the prefetch behind it, up to its largest length. -/
def State.placeByte (s : State) (a : Word) (b : Byte) : State :=
  match region a with
  | .bios o => { s with mem := Memory.write s.mem o b }
  | .rom o =>
    { s with mem := Memory.write s.mem (romKey o) b, params := { s.params with romLen := ⟨min 0x02000000 (max s.params.romLen.val (o + 13)), by omega⟩ } }
  | .ewram o => { s with mem := Memory.write s.mem (0x02000000 + o) b }
  | .iwram o => { s with mem := Memory.write s.mem (0x03000000 + o) b }
  | .palette o => { s with mem := Memory.write s.mem (0x05000000 + o) b }
  | .vram o => { s with mem := Memory.write s.mem (0x06000000 + o) b }
  | .oam o => { s with mem := Memory.write s.mem (0x07000000 + o) b }
  | .io _ | .save _ | .unmapped => s

/-- Bytes at rising addresses. -/
def State.placeBytes (s : State) (a : Word) : List Byte → State
  | [] => s
  | b :: rest => (s.placeByte a b).placeBytes (a + 1) rest

/-- No IRQ is taken at the next step: IME is cleared if the key sample or a pending interrupt would cause one. -/
def State.quietIrq (s : State) : State := if s.sampleKeys.irqTaken then { s with ime := false } else s

/-- The word `w` of an instruction of `thumb` size, put at the address of the next instruction to execute and fetched, so that the
next step executes it: T is the set's state, the pipeline is refilled from there, the CPU is not halted. -/
def State.loadInstr (s : State) (thumb : Bool) (w : Word) : State :=
  let a := alignPc thumb s.nextExecAddr
  let bytes := if thumb then [w.extractLsb' 0 8, w.extractLsb' 8 8]
    else [w.extractLsb' 0 8, w.extractLsb' 8 8, w.extractLsb' 16 8, w.extractLsb' 24 8]
  let s1 := { s with cpsr := { s.cpsr with t := thumb }, halted := false, pcWrite := none }.placeBytes a bytes
  { ({ s1 with r15 := a }).refill with pipeE := w }.quietIrq

end Sys2Proof.Machine
end

