-- ==== Sys2Proof/Machine/Step.lean ====
section
/-! DEFINITION. The step of the machine: one system step (R500 of 60_exceptions.md). -/

namespace Sys2Proof.Machine

/-- One step: key sample, CPU step, LCD, DMA, timers (R500). -/
def step (s : State) : Host.Outcome State Fault Refusal := s.systemStep

/-- `s` with the instruction of `nbits` bits `w` (numbered as opcode_table.json numbers them) stored where the next step fetches
and runs it (log 2). -/
def State.withFetchWord (s : State) (nbits w : Nat) : State :=
  if nbits ≤ 16 then s.loadInstr true (BitVec.ofNat 32 (w % 0x10000)) else s.loadInstr false (BitVec.ofNat 32 w)

end Sys2Proof.Machine
end

