-- ==== Sys2Proof/Safety.lean ====
section
/-! DEFINITION. What claims say of a step: what it leaves alone (frames), where the program counter goes, and the invariants of a
run. Nothing here is used by the machine. -/

namespace Sys2Proof.Machine

/-! ## The save device's history (R68; log 17) -/

/-- What a read of the byte at `a` adds to the history. -/
def saveRead (a : Word) : List Config.SaveEvent :=
  match region a with
  | .save o => [.read (BitVec.ofNat 16 o)]
  | .bios _ | .ewram _ | .iwram _ | .io _ | .palette _ | .vram _ | .oam _ | .rom _ | .unmapped => []

/-- What a write of the byte at `a` adds to the history. -/
def saveWrite (a : Word) (b : Byte) : List Config.SaveEvent :=
  match region a with
  | .save o => [.write (BitVec.ofNat 16 o) b]
  | .bios _ | .ewram _ | .iwram _ | .io _ | .palette _ | .vram _ | .oam _ | .rom _ | .unmapped => []

/-- What a read of `n` bytes from `a` on adds, newest first: one byte read each, at ascending offsets (R68). -/
def saveReads (a : Word) : Nat → List Config.SaveEvent
  | 0 => []
  | n + 1 => saveReads (a + 1) n ++ saveRead a

/-- What a write of the `n` low bytes of `v` from `a` on adds, newest first (R68). -/
def saveWrites (a v : Word) : Nat → List Config.SaveEvent
  | 0 => []
  | n + 1 => saveWrites (a + 1) (v >>> 8) n ++ saveWrite a (v.extractLsb' 0 8)

/-- What a write of words from `a` on adds, newest first. -/
def saveWords (a : Word) : List Word → List Config.SaveEvent
  | [] => []
  | v :: vs => saveWords (a + 4) vs ++ saveWrites a v 4

/-- `t` with the history that `s` had and `new` on top; `none`, no save device, stays. -/
def State.withSave (t s : State) (new : List Config.SaveEvent) : State := { t with save := s.save.map (new ++ ·) }

/-- From `s` to `t` the save device saw the accesses `new`, newest first, and no other. -/
def SaveGrew (s t : State) (new : List Config.SaveEvent) : Prop := t.save = s.save.map (new ++ ·)

/-! ## Frames -/

/-- An address that is storage: not an I/O register and not the save device, whose reads are answered elsewhere. -/
def isMemory (a : Word) : Bool :=
  match region a with
  | .io _ | .save _ => false
  | .bios _ | .ewram _ | .iwram _ | .palette _ | .vram _ | .oam _ | .rom _ | .unmapped => true

/-- An address that is RAM: EWRAM, IWRAM, palette, VRAM or OAM (R69 of 20_memory.md). -/
def isRam (a : Word) : Bool := (region a).ramKey.isSome

/-- Everything outside the CPU and the memories is unchanged: halt state, interrupt controller, DMA, timers, LCD, keys,
parameters and the pixel sink. What the save device saw is said beside it: `SaveGrew`, `Advanced`, `Branched`, `Entered`. -/
structure SameDevices (s t : State) : Prop where
  halted      : t.halted = s.halted
  ie          : t.ie = s.ie
  iflag       : t.iflag = s.iflag
  ime         : t.ime = s.ime
  dma         : t.dma = s.dma
  vblankPulse : t.vblankPulse = s.vblankPulse
  hblankPulse : t.hblankPulse = s.hblankPulse
  timers      : t.timers = s.timers
  lcd         : t.lcd = s.lcd
  keycnt      : t.keycnt = s.keycnt
  keyState    : t.keyState = s.keyState
  keyInput    : t.keyInput = s.keyInput
  params      : t.params = s.params
  pixels      : t.pixels = s.pixels

/-- The five SPSRs are unchanged. -/
structure SameSpsrs (s t : State) : Prop where
  fiq : t.spsrFiq = s.spsrFiq
  irq : t.spsrIrq = s.spsrIrq
  svc : t.spsrSvc = s.spsrSvc
  abt : t.spsrAbt = s.spsrAbt
  und : t.spsrUnd = s.spsrUnd

/-- Every general register of every bank is unchanged, but for those the current bank of `s` gives the names `ds`
(R15 is not among them; its story is `Advanced` or `Branched`). -/
def SameRegs (s t : State) (ds : List Reg) : Prop :=
  ∀ (b : Bank) (r : Reg), r ≠ 15 → (∀ d ∈ ds, d ≠ 15 → physIndex b r ≠ physIndex s.bank d) →
    t.readBank b r = s.readBank b r

/-- Every byte of memory reads as before. -/
def SameMemory (s t : State) : Prop := ∀ a, isMemory a = true → (t.busReadByte a).1 = (s.busReadByte a).1

/-- Every byte of memory reads as before, but for the places of the `n` bytes from `ea` on; a mirror of one of them is the same
place (R62, R69). -/
def SameMemoryBut (s t : State) (ea : Word) (n : Nat) : Prop :=
  ∀ a, isMemory a = true → (∀ k < n, region a ≠ region (ea + BitVec.ofNat 32 k)) →
    (t.busReadByte a).1 = (s.busReadByte a).1

/-- The bytes from `ea` on read as the little-endian bytes of `v`, `n` of them (R71). -/
def HoldsBytes (t : State) (ea : Word) (n : Nat) (v : Word) : Prop :=
  ∀ k < n, (t.busReadByte (ea + BitVec.ofNat 32 k)).1 = v.extractLsb' (8 * k) 8

/-- Only the registers `ds` of the current bank, the CPSR, the pipeline and the save device's history may differ. -/
structure Frame (s t : State) (ds : List Reg) : Prop where
  regs    : SameRegs s t ds
  spsrs   : SameSpsrs s t
  devices : SameDevices s t
  memory  : SameMemory s t

/-- The instruction moved on to the next one (R152): the slots shift, and the free one takes the word at the new R15, read after the
instruction's own accesses. `data` is what those added to the save device's history; the fetch comes on top. -/
structure Advanced (s t : State) (data : List Config.SaveEvent := []) : Prop where
  r15   : t.r15 = s.r15 + s.iszWord
  slotE : t.pipeE = s.pipeD
  slotD : t.pipeD = s.pipeF
  slotF : t.pipeF = ((t.withSave s data).memRead t.r15 t.isz).1
  valid : t.pipeValid = s.pipeValid
  noPc  : t.pcWrite = none
  save  : SaveGrew s t (saveReads (alignTo t.r15 t.isz) t.isz ++ data)

/-- The instruction wrote `target` to R15 (R153): no fetch, so the save device saw the instruction's own accesses `data` only. -/
structure Branched (s t : State) (target : Word) (data : List Config.SaveEvent := []) : Prop where
  r15     : t.r15 = alignPc t.cpsr.t target
  invalid : t.pipeValid = false
  noPc    : t.pcWrite = none
  save    : SaveGrew s t data

/-- The pc after an instruction that wrote `w` to R15, if anything. -/
def PcAfter (s t : State) (w : Option Word) (data : List Config.SaveEvent := []) : Prop :=
  match w with
  | none => Advanced s t data
  | some target => Branched s t target data

/-! ## Invariants of a run -/

/-- No write to R15 is pending between steps (log 31), and R15 is aligned to the instruction size of the state (R32). -/
def PcInv (s : State) : Prop := s.pcWrite = none ∧ s.r15 = alignPc s.cpsr.t s.r15

/-- A halted CPU has no enabled interrupt pending (R451), and the four IF bits that nothing requests, 7, 13, 14 and 15, are 0
(R440, R446). -/
def IrqInv (s : State) : Prop := (s.halted = true → s.iflag &&& s.ie = 0) ∧ s.iflag &&& 0xE080 = 0

/-- The ranges of the LCD counters, and the two flags as functions of them (R41, R489 to R491). -/
structure LcdInv (s : State) : Prop where
  scanline : s.lcd.scanline < 228
  cycle    : s.lcd.cycle < 1232
  vblank   : s.lcd.vblank = decide (160 ≤ s.lcd.scanline)
  hblank   : s.lcd.hblank = decide (960 ≤ s.lcd.cycle)

/-- How many cycles into its frame the LCD is (R489). -/
def lcdPosition (s : State) : Nat := s.lcd.scanline * 1232 + s.lcd.cycle

/-- The words of R14 and the SPSR of the bank an exception enters, with the status it leaves (R426, R427). -/
structure Entered (s t : State) (e : Exc) (ret : Word) : Prop where
  status  : t.cpsr = { s.cpsr with mode := e.mode, t := false, i := true }
  saved   : t.spsrOf e.bank = some s.cpsr
  link    : t.readBank e.bank 14 = ret
  r15     : t.r15 = e.vector
  invalid : t.pipeValid = false
  noPc    : t.pcWrite = none
  others  : ∀ (b : Bank) (r : Reg), r ≠ 15 → physIndex b r ≠ physIndex e.bank 14 → t.readBank b r = s.readBank b r
  spsrs   : ∀ b, b ≠ e.bank → t.spsrOf b = s.spsrOf b
  devices : SameDevices s t
  memory  : SameMemory s t
  save    : t.save = s.save

end Sys2Proof.Machine
end

