-- ==== Sys2Proof/Certificates/Slice0/Obligations.lean ====
section
/-! DEFINITION. The statements for the provers. Each docstring names the rules of the spec it formalises. Where a statement quantifies
over a list of pairs, every instruction named in the list has the effect that stands beside it. -/

open Sys2Proof Sys2Proof.Machine Host

/-! ## Decoding and stepping -/

/-- Words written out from the layouts of 30_encoding.md decode to the instruction they stand for: a data-processing word with a
register operand (R113, R115), a single transfer (R118), a block transfer (R120), a branch (R122), an MSR immediate (R116), THUMB
formats 6 (R130), 14 and 19 (R131). The layouts are general knowledge the spec adopts (G1, G2, log 30). -/
def Obligations.WrittenWordsDecode : Prop :=
  decodeArm 0xE0910002 = .add .al true 1 0 (.shiftImm 2 .lsl 0) ∧
  decodeArm 0xE5910004 = .ldr .al true true false 1 0 (.imm 4) ∧
  decodeArm 0xE8BD800F = .ldm .al false true false true 13 0x800F ∧
  decodeArm 0xEAFFFFFE = .b .al 0xFFFFFE ∧
  decodeArm 0xE321F0DF = .msr .al false 1 (.imm 0 0xDF) ∧
  decodeThumb 0x4888 = .tLdrPc 0 0x88 ∧
  decodeThumb 0xB501 = .tPush true 1 ∧
  decodeThumb 0xF801 = .tBlSuffix 1

/-- Decoding the bytes of an encoded ARM instruction gives it back, with nothing left over (R113 to R127). The layouts are general
knowledge the spec adopts (G1, log 30). -/
def Obligations.ArmEncodeDecode : Prop :=
  ∀ i : Instr, i.isThumb = false → i.wellFormed = true → decode false (encode i).bytes = .ok (i, [])

/-- Decoding the bytes of an encoded THUMB instruction gives it back, with nothing left over (R129 to R134). The layouts are general
knowledge the spec adopts (G2, log 30). -/
def Obligations.ThumbEncodeDecode : Prop :=
  ∀ i : Instr, i.isThumb = true → i.wellFormed = true → decode true (encode i).bytes = .ok (i, [])

/-- A step of a running CPU with a valid pipeline and no IRQ to take executes the instruction its Execute slot decodes to, between
the key sample and the device phases (R150, R155, R500). Two clauses are choices: the key sample comes first (D30, log 23); the kind
of the step is condFailed when an ARM condition fails and else execute, a THUMB instruction always execute (log 20, from D5). -/
def Obligations.StepExecutesSlot : Prop :=
  ∀ (s : State) (i : Instr) (bytes : List Byte),
    let s0 := s.sampleKeys
    s0.halted = false → s0.irqTaken = false → s0.pipeValid = true →
    bytes = (if s0.cpsr.t then Encoded.thumb (s0.pipeE.setWidth 16) else Encoded.arm s0.pipeE).bytes →
    decode s0.cpsr.t bytes = .ok (i, []) →
    step s = match exec i s0 with
      | .next s1 => .next (s1.devices (cyclesOf s0.params.cycles (if condPassed s0.cpsr i.cond then .execute else .condFailed)))
      | .fault f => .fault f
      | .refused r => .refused r

/-- A refill reads three words in ascending order, at R15, R15 + isz and R15 + 2 * isz, into the slots E, D and F, each after the reads
before it, which only the save device can tell; where memory holds the bytes, the slot has them. R15 goes up by 2 * isz, the pipeline
is valid, and nothing else changes (R35, R151; the refill in one step and the factor 2 are the spec's choice D2). -/
def Obligations.RefillFetchesAtR15 : Prop :=
  ∀ (s : State),
    let t := s.refill
    let n := s.isz
    let a := s.r15
    let b := s.r15 + s.iszWord
    let c := s.r15 + 2 * s.iszWord
    let one := saveReads (alignTo a n) n
    let two := saveReads (alignTo b n) n ++ one
    t.pipeE = (s.memRead a n).1 ∧ t.pipeD = ((s.withSave s one).memRead b n).1 ∧ t.pipeF = ((s.withSave s two).memRead c n).1 ∧
    (∀ q ∈ [(t.pipeE, a), (t.pipeD, b), (t.pipeF, c)], (∀ k < n, isMemory (alignTo q.2 n + BitVec.ofNat 32 k) = true) →
      ∀ k < n, q.1.extractLsb' (8 * k) 8 = (s.busReadByte (alignTo q.2 n + BitVec.ofNat 32 k)).1) ∧
    t.r15 = c ∧ t.pipeValid = true ∧ t.pcWrite = s.pcWrite ∧ t.cpsr = s.cpsr ∧ Frame s t [] ∧
    SaveGrew s t (saveReads (alignTo c n) n ++ two)

/-- An ARM instruction whose condition fails only advances: no register, flag, memory, device or diagnostic effect of its own
(R156). The diagnostics are those of the fetch alone. -/
def Obligations.FailedConditionAdvances : Prop :=
  ∀ (i : Instr) (s : State), i.isThumb = false → condPassed s.cpsr i.cond = false →
    ∃ t, exec i s = .next t ∧ t.cpsr = s.cpsr ∧ Frame s t [] ∧ Advanced s t ∧
      t.diags = (s.fetch (s.r15 + s.iszWord)).2.diags

/-! ## Conditions, shifter, adder -/

/-- The sixteen predicates of the condition evaluator (R160, R161; the predicates are general knowledge the spec adopts). -/
def Obligations.ConditionTable : Prop :=
  ∀ (p : Psr) (code : BitVec 4),
    condPassed p (Cond.ofCode code) = true ↔
      (code = 0x0 ∧ p.z = true) ∨ (code = 0x1 ∧ p.z = false) ∨ (code = 0x2 ∧ p.c = true) ∨ (code = 0x3 ∧ p.c = false) ∨
      (code = 0x4 ∧ p.n = true) ∨ (code = 0x5 ∧ p.n = false) ∨ (code = 0x6 ∧ p.v = true) ∨ (code = 0x7 ∧ p.v = false) ∨
      (code = 0x8 ∧ p.c = true ∧ p.z = false) ∨ (code = 0x9 ∧ (p.c = false ∨ p.z = true)) ∨
      (code = 0xA ∧ p.n = p.v) ∨ (code = 0xB ∧ p.n ≠ p.v) ∨ (code = 0xC ∧ p.z = false ∧ p.n = p.v) ∨
      (code = 0xD ∧ (p.z = true ∨ p.n ≠ p.v)) ∨ code = 0xE ∨ code = 0xF

/-- The barrel shifter: LSL and LSR by 0, 1 to 31, 32 and more; ASR, ROR and RRX; result and carry-out, `none` for UNAFFECTED
(R165 to R169). The operands made with it: a rotated immediate, with bit 31 of the result as carry-out unless the rotation is 0
(R171); an immediate amount, where 0 is 32 for LSR and ASR and RRX for ROR; the low byte of a register as amount (R170, R172; R15 reads
A + 8 in every position, D15); the operand of MSR (R231). The carry-out of an immediate, the low byte and ASR and ROR by 32 or more are
general knowledge the spec adopts (G6, log 30). -/
def Obligations.BarrelShifter : Prop :=
  (∀ (v : Word) (n : Nat) (c : Bool),
    (n = 0 → ∀ ty, shiftBy ty v n = (v, none)) ∧
    (1 ≤ n → n ≤ 31 →
      (shiftBy .lsl v n).1.toNat = v.toNat * 2 ^ n % 2 ^ 32 ∧ (shiftBy .lsl v n).2 = some (v.getLsbD (32 - n)) ∧
      (shiftBy .lsr v n).1.toNat = v.toNat / 2 ^ n ∧ (shiftBy .lsr v n).2 = some (v.getLsbD (n - 1)) ∧
      (shiftBy .asr v n).1.toInt = v.toInt / 2 ^ n ∧ (shiftBy .asr v n).2 = some (v.getLsbD (n - 1))) ∧
    (n = 32 → shiftBy .lsl v n = (0, some (v.getLsbD 0)) ∧ shiftBy .lsr v n = (0, some (v.getLsbD 31))) ∧
    (32 < n → shiftBy .lsl v n = (0, some false) ∧ shiftBy .lsr v n = (0, some false)) ∧
    (32 ≤ n → shiftBy .asr v n = (if v.getLsbD 31 then 0xFFFFFFFF else 0, some (v.getLsbD 31))) ∧
    (1 ≤ n → (∀ k < 32, (shiftBy .ror v n).1.getLsbD k = v.getLsbD ((k + n) % 32)) ∧
      (shiftBy .ror v n).2 = some (v.getLsbD ((n - 1) % 32))) ∧
    (∀ k < 31, (shiftRrx v c).1.getLsbD k = v.getLsbD (k + 1)) ∧ (shiftRrx v c).1.getLsbD 31 = c ∧
    (shiftRrx v c).2 = some (v.getLsbD 0)) ∧
  (∀ (s : State) (rm rs : Reg) (rot : BitVec 4) (imm : BitVec 8) (amount : BitVec 5),
    let v := s.readReg rm
    let i := s.operand2 (.imm rot imm)
    let n := amount.toNat
    s.readReg 15 = s.r15 ∧
    (∀ k < 32, i.1.getLsbD k = (imm.setWidth 32).getLsbD ((k + 2 * rot.toNat) % 32)) ∧
    i.2 = (if rot = 0 then none else some (i.1.getLsbD 31)) ∧
    s.operand2 (.shiftImm rm .lsl amount) = shiftBy .lsl v n ∧
    s.operand2 (.shiftImm rm .lsr amount) = shiftBy .lsr v (if n = 0 then 32 else n) ∧
    s.operand2 (.shiftImm rm .asr amount) = shiftBy .asr v (if n = 0 then 32 else n) ∧
    s.operand2 (.shiftImm rm .ror amount) = (if n = 0 then shiftRrx v s.cpsr.c else shiftBy .ror v n) ∧
    (∀ ty, s.operand2 (.shiftReg rm ty rs) = shiftBy ty v ((s.readReg rs).toNat % 256)) ∧
    s.msrOperand (.imm rot imm) = i.1 ∧ s.msrOperand (.reg rm) = v)

/-- The adder and the subtractions made from it: the value modulo 2^32; the carry-out says the exact unsigned sum does not fit, for a
subtraction that there is no borrow; the overflow flag says the exact signed result does not fit (R175, R177, R178). -/
def Obligations.AdderExact : Prop :=
  ∀ (a b : Word) (c : Bool),
    let r := addWithCarry a b c
    r.value = a + b + (BitVec.ofBool c).setWidth 32 ∧
    (r.carry = true ↔ a.toNat + b.toNat + c.toNat ≠ r.value.toNat) ∧
    (r.overflow = true ↔ a.toInt + b.toInt + (c.toNat : Int) ≠ r.value.toInt) ∧
    (sumSub a b c).value = a - b ∧ ((sumSub a b c).carry = true ↔ b.toNat ≤ a.toNat) ∧
    ((sumSub a b c).overflow = true ↔ a.toInt - b.toInt ≠ (a - b).toInt) ∧
    (sumSbc a b c).value = a - b - (if c then 0#32 else 1#32) ∧
    ((sumSbc a b c).carry = true ↔ b.toNat + (if c then 0 else 1) ≤ a.toNat) ∧
    sumRsb a b c = sumSub b a c ∧ sumRsc a b c = sumSbc b a c

/-! ## ARM data processing and multiplies -/

/-- AND, EOR, ORR, BIC, MOV, MVN with a destination other than R15: the result, the logical flags with S = 1, and the frame
(R176, R200 to R202, R213 to R216). -/
def Obligations.ArmLogicalResults : Prop :=
  ∀ (s : State) (c : Cond) (sf : Bool) (rn rd : Reg) (o : Operand2), condPassed s.cpsr c = true → rd ≠ 15 →
    ∀ q ∈ [(Instr.and c sf rn rd o, s.readReg rn &&& (s.operand2 o).1), (.eor c sf rn rd o, s.readReg rn ^^^ (s.operand2 o).1),
           (.orr c sf rn rd o, s.readReg rn ||| (s.operand2 o).1), (.bic c sf rn rd o, s.readReg rn &&& ~~~(s.operand2 o).1),
           (.mov c sf rd o, (s.operand2 o).1), (.mvn c sf rd o, ~~~(s.operand2 o).1)],
      ∃ t, exec q.1 s = .next t ∧ t.readReg rd = q.2 ∧
        t.cpsr = (if sf then { s.cpsr with n := q.2.msb, z := q.2 == 0, c := (s.operand2 o).2.getD s.cpsr.c } else s.cpsr) ∧
        Frame s t [rd] ∧ Advanced s t

/-- SUB, RSB, ADD, ADC, SBC, RSC with a destination other than R15: the adder's operands, the arithmetic flags with S = 1, and the
frame (R175, R177, R200, R203 to R208). -/
def Obligations.ArmArithmeticResults : Prop :=
  ∀ (s : State) (c : Cond) (sf : Bool) (rn rd : Reg) (o : Operand2), condPassed s.cpsr c = true → rd ≠ 15 →
    let a := s.readReg rn
    let b := (s.operand2 o).1
    ∀ q ∈ [(Instr.sub c sf rn rd o, addWithCarry a (~~~b) true), (.rsb c sf rn rd o, addWithCarry b (~~~a) true),
           (.add c sf rn rd o, addWithCarry a b false), (.adc c sf rn rd o, addWithCarry a b s.cpsr.c),
           (.sbc c sf rn rd o, addWithCarry a (~~~b) s.cpsr.c), (.rsc c sf rn rd o, addWithCarry b (~~~a) s.cpsr.c)],
      ∃ t, exec q.1 s = .next t ∧ t.readReg rd = q.2.value ∧
        t.cpsr = (if sf then { s.cpsr with n := q.2.value.msb, z := q.2.value == 0, c := q.2.carry, v := q.2.overflow } else s.cpsr) ∧
        Frame s t [rd] ∧ Advanced s t

/-- TST, TEQ, CMP, CMN write only the flags, whatever the Rd field holds (R200, R209 to R212, R217; ignoring the field is the spec's
choice D22). That CMP and CMN are SUB and ADD without a destination (R177), that TST and TEQ set the logical flags (R176) and what TEQ and
CMN compute are general knowledge the spec adopts (G7, log 30). -/
def Obligations.ArmCompareFlags : Prop :=
  ∀ (s : State) (c : Cond) (rn : Reg) (o : Operand2), condPassed s.cpsr c = true →
    let a := s.readReg rn
    let b := (s.operand2 o).1
    (∀ q ∈ [(Instr.tst c rn o, a &&& b), (.teq c rn o, a ^^^ b)],
      ∃ t, exec q.1 s = .next t ∧
        t.cpsr = { s.cpsr with n := q.2.msb, z := q.2 == 0, c := (s.operand2 o).2.getD s.cpsr.c } ∧ Frame s t [] ∧ Advanced s t) ∧
    (∀ q ∈ [(Instr.cmp c rn o, addWithCarry a (~~~b) true), (.cmn c rn o, addWithCarry a b false)],
      ∃ t, exec q.1 s = .next t ∧
        t.cpsr = { s.cpsr with n := q.2.value.msb, z := q.2.value == 0, c := q.2.carry, v := q.2.overflow } ∧
        Frame s t [] ∧ Advanced s t)

/-- Data processing with Rd = 15 branches to the result; with S = 1 the SPSR of the current mode becomes the CPSR first, so the
state and the alignment of the new R15 are the restored ones; in usr and sys mode, which have no SPSR, the CPSR stays (R179, R200,
R428; the last clause is R235, a choice of the spec, log 7). The copy of the SPSR is general knowledge the spec adopts (G7, log 30). -/
def Obligations.ArmResultToPc : Prop :=
  ∀ (s : State) (c : Cond) (sf : Bool) (rn : Reg) (o : Operand2), condPassed s.cpsr c = true →
    let a := s.readReg rn
    let b := (s.operand2 o).1
    ∀ q ∈ [(Instr.and c sf rn 15 o, a &&& b), (.eor c sf rn 15 o, a ^^^ b), (.orr c sf rn 15 o, a ||| b),
           (.bic c sf rn 15 o, a &&& ~~~b), (.mov c sf 15 o, b), (.mvn c sf 15 o, ~~~b), (.sub c sf rn 15 o, a - b),
           (.rsb c sf rn 15 o, b - a), (.add c sf rn 15 o, a + b), (.adc c sf rn 15 o, a + b + (if s.cpsr.c then 1#32 else 0#32)),
           (.sbc c sf rn 15 o, a - b - (if s.cpsr.c then 0#32 else 1#32)),
           (.rsc c sf rn 15 o, b - a - (if s.cpsr.c then 0#32 else 1#32))],
      ∃ t, exec q.1 s = .next t ∧ t.cpsr = (if sf then (s.spsrOf s.bank).getD s.cpsr else s.cpsr) ∧
        Branched s t q.2 ∧ Frame s t []

/-- MUL and MLA: the low 32 bits, N and Z with S = 1, C and V unchanged (that they are unchanged is the spec's choice, R240 (b), log
6), and the frame; Rd = 15 branches to the result (R240 to R242). The operations of the multiplies are general knowledge the spec
adopts (G9, log 30). -/
def Obligations.ArmMultiplies : Prop :=
  ∀ (s : State) (c : Cond) (sf : Bool) (rd rn rs rm : Reg), condPassed s.cpsr c = true →
    ∀ q ∈ [(Instr.mul c sf rd rs rm, s.readReg rm * s.readReg rs), (.mla c sf rd rn rs rm, s.readReg rm * s.readReg rs + s.readReg rn)],
      ∃ t, exec q.1 s = .next t ∧ (rd ≠ 15 → t.readReg rd = q.2) ∧
        t.cpsr = (if sf then { s.cpsr with n := q.2.msb, z := q.2 == 0 } else s.cpsr) ∧
        Frame s t [rd] ∧ PcAfter s t (if rd = 15 then some q.2 else none)

/-- UMULL, UMLAL, SMULL, SMLAL: the 64-bit product, with the accumulator for the L forms, in RdHi and RdLo (RdHi is written last), N
from bit 63 and Z from all 64 bits with S = 1, C and V unchanged (the spec's choice, log 6), and the frame (R240, R243 to R246). The
operations of the multiplies are general knowledge the spec adopts (G9, log 30). -/
def Obligations.ArmLongMultiplies : Prop :=
  ∀ (s : State) (c : Cond) (sf : Bool) (rdHi rdLo rs rm : Reg), condPassed s.cpsr c = true →
    let u : Nat := (s.readReg rm).toNat * (s.readReg rs).toNat
    let i : Int := (s.readReg rm).toInt * (s.readReg rs).toInt
    let acc : Nat := (s.readReg rdHi).toNat * 2 ^ 32 + (s.readReg rdLo).toNat
    ∀ q ∈ [(Instr.umull c sf rdHi rdLo rs rm, BitVec.ofNat 64 u), (.umlal c sf rdHi rdLo rs rm, BitVec.ofNat 64 (u + acc)),
           (.smull c sf rdHi rdLo rs rm, BitVec.ofInt 64 i), (.smlal c sf rdHi rdLo rs rm, BitVec.ofInt 64 (i + acc))],
      ∃ t, exec q.1 s = .next t ∧
        (rdHi ≠ 15 → t.readReg rdHi = q.2.extractLsb' 32 32) ∧
        (rdLo ≠ 15 → rdLo ≠ rdHi → t.readReg rdLo = q.2.extractLsb' 0 32) ∧
        t.cpsr = (if sf then { s.cpsr with n := q.2.msb, z := q.2 == 0 } else s.cpsr) ∧
        Frame s t [rdHi, rdLo] ∧
        PcAfter s t (if rdHi = 15 then some (q.2.extractLsb' 32 32) else if rdLo = 15 then some (q.2.extractLsb' 0 32) else none)

/-! ## Status registers -/

/-- MRS: Rd takes the CPSR or the SPSR of the current mode, bits 27:8 reading 0; without an SPSR it takes the CPSR (that clause is
R235, the spec's choice, log 7); nothing else changes (R25, R230). -/
def Obligations.MrsReadsStatus : Prop :=
  ∀ (s : State) (c : Cond) (spsr : Bool) (rd : Reg), condPassed s.cpsr c = true →
    let p := if spsr then (s.spsrOf s.bank).getD s.cpsr else s.cpsr
    ∃ t v, exec (.mrs c spsr rd) s = .next t ∧ v = p.toWord ∧ v.extractLsb' 8 20 = 0 ∧ Psr.ofWord v = p ∧
      (rd ≠ 15 → t.readReg rd = v) ∧ t.cpsr = s.cpsr ∧ Frame s t [rd] ∧ PcAfter s t (if rd = 15 then some v else none)

/-- MSR to the CPSR: in usr mode only the flags can change, under field bit 3; in the other modes the control byte changes under
field bit 0 as well; no general register, SPSR, memory byte or device changes; a change of T invalidates the pipeline instead of
advancing (R154, R231 to R234; the change of T is the spec's choice D17, log 9). Which field bit selects which byte and the limit in usr
mode are general knowledge the spec adopts (R232, G8, D18, log 8, log 30). -/
def Obligations.MsrWritesCpsr : Prop :=
  ∀ (s : State) (c : Cond) (mask : BitVec 4) (src : MsrOperand), condPassed s.cpsr c = true →
    let v := s.msrOperand src
    let old := s.cpsr
    let f := mask.getLsbD 3
    let k := mask.getLsbD 0 && decide (s.cpsr.mode ≠ 0x10)
    ∃ t, exec (.msr c false mask src) s = .next t ∧
      t.cpsr = { n := if f then v.getLsbD 31 else old.n, z := if f then v.getLsbD 30 else old.z,
                 c := if f then v.getLsbD 29 else old.c, v := if f then v.getLsbD 28 else old.v,
                 i := if k then v.getLsbD 7 else old.i, f := if k then v.getLsbD 6 else old.f,
                 t := if k then v.getLsbD 5 else old.t, mode := if k then v.extractLsb' 0 5 else old.mode } ∧
      Frame s t [] ∧
      (t.cpsr.t = s.cpsr.t → Advanced s t) ∧
      (t.cpsr.t ≠ s.cpsr.t → t.r15 = alignPc t.cpsr.t s.r15 ∧ t.pipeValid = false ∧ t.pcWrite = none ∧ SaveGrew s t [])

/-- MSR to the SPSR of the current mode writes the flags under field bit 3 and the control byte under field bit 0, whatever the
mode, and nothing else; in a mode without an SPSR it changes no status register (R231, R232; the last clause is R235, the spec's
choice, log 7). The field mask is general knowledge the spec adopts (G8, log 30). -/
def Obligations.MsrWritesSpsr : Prop :=
  ∀ (s : State) (c : Cond) (mask : BitVec 4) (src : MsrOperand), condPassed s.cpsr c = true →
    let v := s.msrOperand src
    let f := mask.getLsbD 3
    let k := mask.getLsbD 0
    ∃ t, exec (.msr c true mask src) s = .next t ∧ t.cpsr = s.cpsr ∧
      (∀ b, t.spsrOf b = if b = s.bank then
        (s.spsrOf b).map fun old =>
          { n := if f then v.getLsbD 31 else old.n, z := if f then v.getLsbD 30 else old.z,
            c := if f then v.getLsbD 29 else old.c, v := if f then v.getLsbD 28 else old.v,
            i := if k then v.getLsbD 7 else old.i, f := if k then v.getLsbD 6 else old.f,
            t := if k then v.getLsbD 5 else old.t, mode := if k then v.extractLsb' 0 5 else old.mode }
        else s.spsrOf b) ∧
      SameRegs s t [] ∧ SameDevices s t ∧ SameMemory s t ∧ Advanced s t

/-! ## ARM branches and transfers -/

/-- B, BL and BX: the target, the link in R14, the state bit and the alignment by the new state (R153, R190 to R192). -/
def Obligations.ArmBranches : Prop :=
  ∀ (s : State) (c : Cond) (off : BitVec 24) (rn : Reg), condPassed s.cpsr c = true →
    (∃ t, exec (.b c off) s = .next t ∧ t.cpsr = s.cpsr ∧ Branched s t (s.r15 + BitVec.ofInt 32 (4 * off.toInt)) ∧ Frame s t []) ∧
    (∃ t, exec (.bl c off) s = .next t ∧ t.cpsr = s.cpsr ∧ Branched s t (s.r15 + BitVec.ofInt 32 (4 * off.toInt)) ∧
      t.readReg 14 = s.r15 - 4 ∧ Frame s t [14]) ∧
    (∃ t, exec (.bx c rn) s = .next t ∧ t.cpsr = { s.cpsr with t := (s.readReg rn).getLsbD 0 } ∧
      Branched s t (s.readReg rn) ∧ Frame s t [])

/-- The addresses of transfers: pre- or post-indexed, up or down, written back when post-indexed or W = 1; the offset is the
immediate or the shifted register (R250, R260). The register list of a block is in ascending order, so the lowest register has the
lowest address, and the block starts and ends where P and U say (R280); its words are the single reads at ascending addresses, each at
its aligned address and without rotation, and each after the reads before it, which only the save device can tell (R84, R280; aligning a
block is the spec's choice D14, log 14). The addressing arithmetic is general knowledge the spec adopts (G10 to G12, log 30). -/
def Obligations.AddressingForms : Prop :=
  (∀ (s : State) (p u w : Bool) (rn : Reg) (off : SdtOffset) (hoff : HsdtOffset),
    let o := match off with | .imm v => v.setWidth 32 | .reg rm ty n => (shiftImm ty (s.readReg rm) n s.cpsr.c).1
    let ho := match hoff with | .imm v => v.setWidth 32 | .reg rm => s.readReg rm
    ∀ q ∈ [(s.sdtAddress p u w rn off, o), (s.hsdtAddress p u w rn hoff, ho)],
      q.1.eaOff = (if u then s.readReg rn + q.2 else s.readReg rn - q.2) ∧
      (p = true → q.1.ea = q.1.eaOff) ∧ (p = false → q.1.ea = s.readReg rn) ∧ (q.1.wb = true ↔ p = false ∨ w = true)) ∧
  (∀ (list : BitVec 16) (base : Word),
    (regList list).Pairwise (fun a b => a.toNat < b.toNat) ∧ (∀ r : Reg, r ∈ regList list ↔ list.getLsbD r.toNat = true) ∧
    (let n := (regList list).length
     let four := BitVec.ofNat 32 (4 * n)
     blockStart false true base n = base ∧ blockStart true true base n = base + 4 ∧
     blockStart false false base n = base - four + 4 ∧ blockStart true false base n = base - four ∧
     blockFinal true base n = base + four ∧ blockFinal false base n = base - four)) ∧
  (∀ (s : State) (a : Word) (n : Nat),
    (s.readWords a n).1 = (List.range n).map fun k =>
      ((s.withSave s (saveReads (alignTo a 4) (4 * k))).memRead (a + BitVec.ofNat 32 (4 * k)) 4).1)

/-- LDR, LDRB, LDRT, LDRBT, LDRH, LDRSB, LDRSH: the value loaded (rotated, zero or sign extended by R80 to R82), the base updated
when the form writes back, the loaded value winning when Rd = Rn; R15 as destination branches; memory and devices are unchanged
(R250, R251, R253, R255, R260, R261, R263, R264). The addressing arithmetic is general knowledge the spec adopts (G10 and G11, log
30). -/
def Obligations.ArmLoads : Prop :=
  ∀ (s : State) (c : Cond) (p u w : Bool) (rn rd : Reg) (off : SdtOffset) (hoff : HsdtOffset), condPassed s.cpsr c = true →
    let a := s.sdtAddress p u w rn off
    let at_ := s.sdtAddress false u true rn off
    let h := s.hsdtAddress p u w rn hoff
    let word := fun (ea : Word) => ((s.memRead ea 4).1).rotateRight (8 * (ea.toNat % 4))
    let byte := fun (ea : Word) => (s.memRead ea 1).1
    let sbyte := fun (ea : Word) => ((s.memRead ea 1).1.setWidth 8).signExtend 32
    ∀ q ∈ [(Instr.ldr c p u w rn rd off, a, 4, word a.ea), (.ldrb c p u w rn rd off, a, 1, byte a.ea),
           (.ldrt c u rn rd off, at_, 4, word at_.ea), (.ldrbt c u rn rd off, at_, 1, byte at_.ea),
           (.ldrh c p u w rn rd hoff, h, 2,
             if h.ea.getLsbD 0 then ((s.memRead h.ea 2).1).rotateRight 8 else (s.memRead h.ea 2).1),
           (.ldrsb c p u w rn rd hoff, h, 1, sbyte h.ea),
           (.ldrsh c p u w rn rd hoff, h, if h.ea.getLsbD 0 then 1 else 2,
             if h.ea.getLsbD 0 then sbyte h.ea else ((s.memRead h.ea 2).1.setWidth 16).signExtend 32)],
      let n := q.2.2.1
      let v := q.2.2.2
      ∃ t, exec q.1 s = .next t ∧ t.cpsr = s.cpsr ∧ (rd ≠ 15 → t.readReg rd = v) ∧
        (q.2.1.wb = true → rn ≠ 15 → rn ≠ rd → t.readReg rn = q.2.1.eaOff) ∧
        Frame s t (if q.2.1.wb then [rd, rn] else [rd]) ∧
        PcAfter s t (if rd = 15 then some v else if q.2.1.wb = true ∧ rn = 15 then some q.2.1.eaOff else none)
          (saveReads (alignTo q.2.1.ea n) n)

/-- STR, STRB, STRT, STRBT, STRH: the bytes at the address, aligned to the size, take the low bytes of Rd (R15 reads A + 8); every
other byte of memory is unchanged, the devices too unless an I/O register is stored to; the base is updated when the form writes
back (R83, R250, R252, R254, R255, R260, R262). The addressing arithmetic is general knowledge the spec adopts (G10 and G11, log
30). -/
def Obligations.ArmStores : Prop :=
  ∀ (s : State) (c : Cond) (p u w : Bool) (rn rd : Reg) (off : SdtOffset) (hoff : HsdtOffset), condPassed s.cpsr c = true →
    ∀ q ∈ [(Instr.str c p u w rn rd off, s.sdtAddress p u w rn off, 4), (.strb c p u w rn rd off, s.sdtAddress p u w rn off, 1),
           (.strt c u rn rd off, s.sdtAddress false u true rn off, 4), (.strbt c u rn rd off, s.sdtAddress false u true rn off, 1),
           (.strh c p u w rn rd hoff, s.hsdtAddress p u w rn hoff, 2)],
      let ea := alignTo q.2.1.ea q.2.2
      let n := q.2.2
      ∃ t, exec q.1 s = .next t ∧ t.cpsr = s.cpsr ∧
        SameMemoryBut s t ea n ∧
        (Memory.wf s.mem = true → (∀ k < n, isRam (ea + BitVec.ofNat 32 k) = true) → HoldsBytes t ea n (s.readReg rd)) ∧
        ((∀ k < n, ∀ o, region (ea + BitVec.ofNat 32 k) ≠ .io o) → SameDevices s t) ∧
        (q.2.1.wb = true → rn ≠ 15 → t.readReg rn = q.2.1.eaOff) ∧
        SameRegs s t (if q.2.1.wb then [rn] else []) ∧ SameSpsrs s t ∧
        PcAfter s t (if q.2.1.wb = true ∧ rn = 15 then some q.2.1.eaOff else none) (saveWrites ea (s.readReg rd) n)

/-- SWP and SWPB: Rd takes what was read (a word rotated as LDR does), memory takes Rm, and nothing else changes but the devices
when an I/O register is the target (R84, R290, R291). The order of the registers and the operations are general knowledge the spec
adopts (G12 and G13, log 30). -/
def Obligations.SwapsReadThenWrite : Prop :=
  ∀ (s : State) (c : Cond) (rn rd rm : Reg), condPassed s.cpsr c = true →
    let a := s.readReg rn
    ∀ q ∈ [(Instr.swp c rn rd rm, 4, ((s.memRead a 4).1).rotateRight (8 * (a.toNat % 4))), (.swpb c rn rd rm, 1, (s.memRead a 1).1)],
      let ea := alignTo a q.2.1
      let n := q.2.1
      ∃ t, exec q.1 s = .next t ∧ t.cpsr = s.cpsr ∧ (rd ≠ 15 → t.readReg rd = q.2.2) ∧
        SameMemoryBut s t ea n ∧
        (Memory.wf s.mem = true → (∀ k < n, isRam (ea + BitVec.ofNat 32 k) = true) → HoldsBytes t ea n (s.readReg rm)) ∧
        ((∀ k < n, ∀ o, region (ea + BitVec.ofNat 32 k) ≠ .io o) → SameDevices s t) ∧
        SameRegs s t [rd] ∧ SameSpsrs s t ∧
        PcAfter s t (if rd = 15 then some q.2.2 else none) (saveWrites ea (s.readReg rm) n ++ saveReads ea n)

/-! ## Block transfers -/

/-- LDM of a non-empty list: the words go to the listed registers of the current bank, or of the user bank with S = 1 and R15 not in
the list; with S = 1 and R15 in the list the SPSR becomes the CPSR; the base is updated with W = 1 unless it is loaded; R15 in the
list branches; memory and devices are unchanged (R281, R283, R428; in a mode without an SPSR the CPSR stays, which is R235, the spec's
choice D19, log 7). The order of the registers and the operations are general knowledge the spec adopts (G12 and G13, log 30). -/
def Obligations.LdmLoadsList : Prop :=
  ∀ (s : State) (c : Cond) (p u sb w : Bool) (rn : Reg) (list : BitVec 16), condPassed s.cpsr c = true → list ≠ 0 →
    let rs := regList list
    let base := s.readReg rn
    let start := blockStart p u base rs.length
    let vs := (s.readWords start rs.length).1
    let data := saveReads (alignTo start 4) (4 * rs.length)
    let lb := if sb && !list.getLsbD 15 then Bank.usr else s.bank
    let final := blockFinal u base rs.length
    ∃ t, exec (.ldm c p u sb w rn list) s = .next t ∧
      (∀ q ∈ rs.zip vs, q.1 ≠ 15 → t.readBank lb q.1 = q.2) ∧
      (w = true → rn ≠ 15 → (∀ r ∈ rs, r ≠ 15 → physIndex lb r ≠ physIndex s.bank rn) → t.readBank s.bank rn = final) ∧
      (∀ (b : Bank) (r : Reg), r ≠ 15 → (∀ q ∈ rs, q ≠ 15 → physIndex b r ≠ physIndex lb q) →
        (w = true → rn ≠ 15 → physIndex b r ≠ physIndex s.bank rn) → t.readBank b r = s.readBank b r) ∧
      t.cpsr = (if sb && list.getLsbD 15 then (s.spsrOf s.bank).getD s.cpsr else s.cpsr) ∧
      (∀ q ∈ rs.zip vs, q.1 = 15 → Branched s t q.2 data) ∧
      (list.getLsbD 15 = false → PcAfter s t (if w = true ∧ rn = 15 then some final else none) data) ∧
      SameSpsrs s t ∧ SameDevices s t ∧ SameMemory s t

/-- STM of a non-empty list: each listed register is stored at its word, lowest register first, from the current bank or with S = 1
from the user bank; the base register, when it is in the list with W = 1 and not first, is stored as the updated base if the stored
register is the base's own; the base is updated with W = 1; all other memory, registers and status are unchanged (R280, R282, R283,
R285; the base in the list is the spec's choice, log 13). The order of the registers and the operations are general knowledge the
spec adopts (G12 and G13, log 30). -/
def Obligations.StmStoresList : Prop :=
  ∀ (s : State) (c : Cond) (p u sb w : Bool) (rn : Reg) (list : BitVec 16), condPassed s.cpsr c = true → list ≠ 0 →
    let rs := regList list
    let n := rs.length
    let base := s.readReg rn
    let start := alignTo (blockStart p u base n) 4
    let final := blockFinal u base n
    let stored := fun (k : Nat) (r : Reg) =>
      if w = true ∧ r = rn ∧ k ≠ 0 ∧ (sb = false ∨ r = 15 ∨ physIndex .usr r = physIndex s.bank r) then final
      else if sb then s.readUser r else s.readReg r
    ∃ t, exec (.stm c p u sb w rn list) s = .next t ∧ t.cpsr = s.cpsr ∧
      (Memory.wf s.mem = true → (∀ k < 4 * n, isRam (start + BitVec.ofNat 32 k) = true) →
        ∀ k (hk : k < rs.length), HoldsBytes t (start + BitVec.ofNat 32 (4 * k)) 4 (stored k rs[k])) ∧
      SameMemoryBut s t start (4 * n) ∧
      ((∀ k < 4 * n, ∀ o, region (start + BitVec.ofNat 32 k) ≠ .io o) → SameDevices s t) ∧
      (w = true → rn ≠ 15 → t.readReg rn = final) ∧
      SameRegs s t (if w then [rn] else []) ∧ SameSpsrs s t ∧
      PcAfter s t (if w = true ∧ rn = 15 then some final else none) (saveWords start (rs.zipIdx.map fun x => stored x.2 x.1))

/-- Block transfers with an empty list: R15 alone is transferred and the base moves by 0x40, with a diagnostic, for LDM, STM, PUSH,
POP, STMIA and LDMIA (R284, R382 to R385; the effect is the spec's choice for an unpredictable form, log 12). -/
def Obligations.EmptyListTransfersPc : Prop :=
  ∀ (s : State) (c : Cond) (p u sb w : Bool) (rn : Reg) (rb : LowReg),
    let e : Diag := ⟨.unpredictable .emptyList, s.pipeE⟩
    let base := s.readReg rn
    let start := blockStart p u base 16
    let final := blockFinal u base 16
    let stores := fun (t : State) (a : Word) => SameMemoryBut s t (alignTo a 4) 4 ∧
      (Memory.wf s.mem = true → (∀ k < 4, isRam (alignTo a 4 + BitVec.ofNat 32 k) = true) → HoldsBytes t (alignTo a 4) 4 s.r15) ∧
      ((∀ k < 4, ∀ o, region (alignTo a 4 + BitVec.ofNat 32 k) ≠ .io o) → SameDevices s t)
    (condPassed s.cpsr c = true →
      ∃ t, exec (.ldm c p u sb w rn 0) s = .next t ∧ e ∈ t.diags ∧
        t.cpsr = (if sb then (s.spsrOf s.bank).getD s.cpsr else s.cpsr) ∧
        (w = true → rn ≠ 15 → t.readBank s.bank rn = final) ∧
        Branched s t (s.memRead start 4).1 (saveReads (alignTo start 4) 4) ∧ Frame s t (if w then [rn] else [])) ∧
    (condPassed s.cpsr c = true →
      ∃ t, exec (.stm c p u sb w rn 0) s = .next t ∧ e ∈ t.diags ∧ t.cpsr = s.cpsr ∧
        (w = true → rn ≠ 15 → t.readReg rn = final) ∧ stores t start ∧
        SameRegs s t (if w then [rn] else []) ∧ SameSpsrs s t ∧
        PcAfter s t (if w = true ∧ rn = 15 then some final else none) (saveWrites (alignTo start 4) s.r15 4)) ∧
    (∃ t, exec (.tPush false 0) s = .next t ∧ e ∈ t.diags ∧ t.cpsr = s.cpsr ∧ t.readReg 13 = s.readReg 13 - 0x40 ∧
      stores t (s.readReg 13 - 0x40) ∧ SameRegs s t [13] ∧ SameSpsrs s t ∧
      Advanced s t (saveWrites (alignTo (s.readReg 13 - 0x40) 4) s.r15 4)) ∧
    (∃ t, exec (.tPop false 0) s = .next t ∧ e ∈ t.diags ∧ t.cpsr = s.cpsr ∧ t.readReg 13 = s.readReg 13 + 0x40 ∧
      Branched s t (s.memRead (s.readReg 13) 4).1 (saveReads (alignTo (s.readReg 13) 4) 4) ∧ Frame s t [13]) ∧
    (∃ t, exec (.tStmia rb 0) s = .next t ∧ e ∈ t.diags ∧ t.cpsr = s.cpsr ∧ t.readReg (low rb) = s.readReg (low rb) + 0x40 ∧
      stores t (s.readReg (low rb)) ∧ SameRegs s t [low rb] ∧ SameSpsrs s t ∧
      Advanced s t (saveWrites (alignTo (s.readReg (low rb)) 4) s.r15 4)) ∧
    (∃ t, exec (.tLdmia rb 0) s = .next t ∧ e ∈ t.diags ∧ t.cpsr = s.cpsr ∧ t.readReg (low rb) = s.readReg (low rb) + 0x40 ∧
      Branched s t (s.memRead (s.readReg (low rb)) 4).1 (saveReads (alignTo (s.readReg (low rb)) 4) 4) ∧ Frame s t [low rb])

/-! ## Software interrupt, undefined and coprocessor words -/

/-- SWI in both states enters the SWI exception: the CPSR is saved in SPSR_svc, R14_svc takes the address of the next instruction, the
mode becomes svc with T = 0 and I = 1, R15 becomes 8; nothing else changes (R300, R387, R427; the return address is general
knowledge the spec adopts). -/
def Obligations.SwiEntersSupervisor : Prop :=
  ∀ (s : State),
    (∀ (c : Cond) (comment : BitVec 24), condPassed s.cpsr c = true →
      ∃ t, exec (.swi c comment) s = .next t ∧ Entered s t .swi (s.r15 - s.iszWord)) ∧
    (∀ value8 : BitVec 8, ∃ t, exec (.tSwi value8) s = .next t ∧ Entered s t .swi (s.r15 - s.iszWord))

/-- Undefined and coprocessor words change nothing but the diagnostic stream, where they leave their word, and advance
(R304 to R309, R391; that they are no-operations is the spec's choice, log 10). -/
def Obligations.UndefinedAndCoprocessorAdvance : Prop :=
  ∀ (s : State) (c : Cond) (raw : BitVec 28) (p u n w : Bool) (x1 x2 x3 x4 x5 : BitVec 4) (off : BitVec 8) (o3 : BitVec 3)
    (cp : BitVec 3) (raw12 : BitVec 12) (raw11 : BitVec 11),
    (condPassed s.cpsr c = true →
      ∀ q ∈ [(Instr.undefHalf c raw, DiagKind.undefinedEncoding), (.undefMul c raw, .undefinedEncoding),
             (.undefMedia c raw, .undefinedEncoding), (.cdp c x1 x2 x3 x4 cp x5, .coprocessor),
             (.ldc c p u n w x1 x2 x3 off, .coprocessor), (.stc c p u n w x1 x2 x3 off, .coprocessor),
             (.mrc c o3 x1 x2 x3 cp x4, .coprocessor), (.mcr c o3 x1 x2 x3 cp x4, .coprocessor)],
        ∃ t, exec q.1 s = .next t ∧ ⟨q.2, s.pipeE⟩ ∈ t.diags ∧ t.cpsr = s.cpsr ∧ Frame s t [] ∧ Advanced s t) ∧
    (∀ i ∈ [Instr.tUndefB raw12, .tUndefDE off, .tUndefE8 raw11],
      ∃ t, exec i s = .next t ∧ ⟨.undefinedEncoding, s.pipeE⟩ ∈ t.diags ∧ t.cpsr = s.cpsr ∧ Frame s t [] ∧ Advanced s t)

/-! ## THUMB -/

/-- THUMB shifts by an immediate (0 means 32 for LSR and ASR) and by the low byte of a register: N, Z, and C from the shifter unless
it leaves it alone; V is unchanged (R310 to R313, R324 to R326, R329). The operations of the THUMB formats are general knowledge the
spec adopts (G15, log 30). -/
def Obligations.ThumbShifts : Prop :=
  ∀ (s : State) (imm : BitVec 5) (rs rd : LowReg),
    let v := s.readReg (low rs)
    let d := s.readReg (low rd)
    let n := imm.toNat
    let m := v.toNat % 256
    ∀ q ∈ [(Instr.tLslImm imm rs rd, shiftBy .lsl v n), (.tLsrImm imm rs rd, shiftBy .lsr v (if n = 0 then 32 else n)),
           (.tAsrImm imm rs rd, shiftBy .asr v (if n = 0 then 32 else n)), (.tLsl rs rd, shiftBy .lsl d m),
           (.tLsr rs rd, shiftBy .lsr d m), (.tAsr rs rd, shiftBy .asr d m), (.tRor rs rd, shiftBy .ror d m)],
      ∃ t, exec q.1 s = .next t ∧ t.readReg (low rd) = q.2.1 ∧
        t.cpsr = { s.cpsr with n := q.2.1.msb, z := q.2.1 == 0, c := q.2.2.getD s.cpsr.c } ∧
        Frame s t [low rd] ∧ Advanced s t

/-- THUMB additions and subtractions: the adder's operands, N, Z, C and V (R175, R310, R314 to R317, R320, R321, R327, R328, R331).
The operations of the THUMB formats are general knowledge the spec adopts (G15, log 30). -/
def Obligations.ThumbSums : Prop :=
  ∀ (s : State) (imm3 : BitVec 3) (imm8 : BitVec 8) (rn rs rd : LowReg),
    let n := s.readReg (low rn)
    let v := s.readReg (low rs)
    let d := s.readReg (low rd)
    let i3 : Word := imm3.setWidth 32
    let i8 : Word := imm8.setWidth 32
    let c := s.cpsr.c
    ∀ q ∈ [(Instr.tAddReg rn rs rd, addWithCarry v n false), (.tSubReg rn rs rd, addWithCarry v (~~~n) true),
           (.tAddImm3 imm3 rs rd, addWithCarry v i3 false), (.tSubImm3 imm3 rs rd, addWithCarry v (~~~i3) true),
           (.tAddImm8 rd imm8, addWithCarry d i8 false), (.tSubImm8 rd imm8, addWithCarry d (~~~i8) true),
           (.tAdc rs rd, addWithCarry d v c), (.tSbc rs rd, addWithCarry d (~~~v) c), (.tNeg rs rd, addWithCarry 0 (~~~v) true)],
      ∃ t, exec q.1 s = .next t ∧ t.readReg (low rd) = q.2.value ∧
        t.cpsr = { s.cpsr with n := q.2.value.msb, z := q.2.value == 0, c := q.2.carry, v := q.2.overflow } ∧
        Frame s t [low rd] ∧ Advanced s t

/-- THUMB moves, logical operations and MUL: N and Z; C and V are unchanged (for MUL that is the spec's choice, log 6) (R310, R318,
R322, R323, R334 to R337). The operations of the THUMB formats are general knowledge the spec adopts (G15, log 30). -/
def Obligations.ThumbLogicalResults : Prop :=
  ∀ (s : State) (imm : BitVec 8) (rs rd : LowReg),
    let v := s.readReg (low rs)
    let d := s.readReg (low rd)
    ∀ q ∈ [(Instr.tMovImm rd imm, (imm.setWidth 32 : Word)), (.tAnd rs rd, d &&& v), (.tEor rs rd, d ^^^ v), (.tOrr rs rd, d ||| v),
           (.tBic rs rd, d &&& ~~~v), (.tMvn rs rd, ~~~v), (.tMul rs rd, d * v)],
      ∃ t, exec q.1 s = .next t ∧ t.readReg (low rd) = q.2 ∧ t.cpsr = { s.cpsr with n := q.2.msb, z := q.2 == 0 } ∧
        Frame s t [low rd] ∧ Advanced s t

/-- THUMB comparisons write the flags only: TST N and Z; CMP in its three forms and CMN all four (R319, R330, R332, R333, R339). The
operations of the THUMB formats are general knowledge the spec adopts (G15, log 30). -/
def Obligations.ThumbCompareFlags : Prop :=
  ∀ (s : State) (imm : BitVec 8) (rs rd : LowReg) (hs hd : Reg),
    let v := s.readReg (low rs)
    let d := s.readReg (low rd)
    (∃ t, exec (.tTst rs rd) s = .next t ∧ t.cpsr = { s.cpsr with n := (d &&& v).msb, z := d &&& v == 0 } ∧
      Frame s t [] ∧ Advanced s t) ∧
    ∀ q ∈ [(Instr.tCmpImm rd imm, addWithCarry d (~~~(imm.setWidth 32)) true), (.tCmp rs rd, addWithCarry d (~~~v) true),
           (.tCmn rs rd, addWithCarry d v false), (.tCmpHi hs hd, addWithCarry (s.readReg hd) (~~~(s.readReg hs)) true)],
      ∃ t, exec q.1 s = .next t ∧
        t.cpsr = { s.cpsr with n := q.2.value.msb, z := q.2.value == 0, c := q.2.carry, v := q.2.overflow } ∧
        Frame s t [] ∧ Advanced s t

/-- THUMB ADD and MOV on any register, and the address forms of SP and PC: no flags; Rd = 15 branches within the state; the PC as a
base has bit 1 cleared (R338, R340, R360, R378 to R381). The operations of the THUMB formats are general knowledge the spec adopts
(G15, log 30). -/
def Obligations.ThumbRegisterSums : Prop :=
  ∀ (s : State) (hs hd : Reg) (rd : LowReg) (w8 : BitVec 8) (s7 : BitVec 7),
    let off : Word := BitVec.ofNat 32 (4 * w8.toNat)
    let off7 : Word := BitVec.ofNat 32 (4 * s7.toNat)
    ∀ q ∈ [(Instr.tAddHi hs hd, hd, s.readReg hd + s.readReg hs), (.tMovHi hs hd, hd, s.readReg hs),
           (.tAddPc rd w8, low rd, (s.r15 &&& 0xFFFFFFFC) + off), (.tAddSp rd w8, low rd, s.readReg 13 + off),
           (.tAddSpImm s7, 13, s.readReg 13 + off7), (.tSubSpImm s7, 13, s.readReg 13 - off7)],
      ∃ t, exec q.1 s = .next t ∧ (q.2.1 ≠ 15 → t.readReg q.2.1 = q.2.2) ∧ t.cpsr = s.cpsr ∧ Frame s t [q.2.1] ∧
        PcAfter s t (if q.2.1 = 15 then some q.2.2 else none)

/-- THUMB branches: the conditional branch taken and not taken, B, and BX with the state bit; the first half of BL puts `x[15]` plus
the signed offset times 4096 in R14, the second branches to R14 plus the offset times 2 and leaves in R14 the address of the next
instruction with bit 0 set (R341, R386, R388 to R390). The operations of the THUMB formats are general knowledge the spec adopts
(G15, log 30). -/
def Obligations.ThumbBranches : Prop :=
  ∀ (s : State) (c : Cond) (off8 : BitVec 8) (off11 : BitVec 11) (rs : Reg),
    (∃ t, exec (.tBcond c off8) s = .next t ∧ t.cpsr = s.cpsr ∧ Frame s t [] ∧
      PcAfter s t (if condPassed s.cpsr c then some (s.r15 + BitVec.ofInt 32 (2 * off8.toInt)) else none)) ∧
    (∃ t, exec (.tB off11) s = .next t ∧ t.cpsr = s.cpsr ∧ Frame s t [] ∧
      Branched s t (s.r15 + BitVec.ofInt 32 (2 * off11.toInt))) ∧
    (∃ t, exec (.tBx rs) s = .next t ∧ t.cpsr = { s.cpsr with t := (s.readReg rs).getLsbD 0 } ∧
      Branched s t (s.readReg rs) ∧ Frame s t []) ∧
    (∃ t, exec (.tBlPrefix off11) s = .next t ∧ t.readReg 14 = s.r15 + BitVec.ofInt 32 (4096 * off11.toInt) ∧ t.cpsr = s.cpsr ∧
      Frame s t [14] ∧ Advanced s t) ∧
    (∃ t, exec (.tBlSuffix off11) s = .next t ∧ t.readReg 14 = (s.r15 - 2) ||| 1 ∧ t.cpsr = s.cpsr ∧ Frame s t [14] ∧
      Branched s t (s.readReg 14 + BitVec.ofNat 32 (2 * off11.toNat)))

/-- The ten THUMB loads: address, value (rotated or extended by R80 to R82), destination and frame (R360, R361, R364, R365, R367 to
R369, R371, R373, R375, R377). The operations of the THUMB formats are general knowledge the spec adopts (G15, log 30). -/
def Obligations.ThumbLoads : Prop :=
  ∀ (s : State) (ro rb rd : LowReg) (imm : BitVec 5) (w8 : BitVec 8),
    let word := fun (ea : Word) => ((s.memRead ea 4).1).rotateRight (8 * (ea.toNat % 4))
    let byte := fun (ea : Word) => (s.memRead ea 1).1
    let sbyte := fun (ea : Word) => ((s.memRead ea 1).1.setWidth 8).signExtend 32
    let half := fun (ea : Word) => if ea.getLsbD 0 then ((s.memRead ea 2).1).rotateRight 8 else (s.memRead ea 2).1
    let shalf := fun (ea : Word) => if ea.getLsbD 0 then sbyte ea else ((s.memRead ea 2).1.setWidth 16).signExtend 32
    let r := s.readReg (low rb) + s.readReg (low ro)
    let i := fun (k : Nat) => s.readReg (low rb) + BitVec.ofNat 32 (k * imm.toNat)
    let off8 : Word := BitVec.ofNat 32 (4 * w8.toNat)
    let pc := (s.r15 &&& 0xFFFFFFFC) + off8
    let sp := s.readReg 13 + off8
    ∀ q ∈ [(Instr.tLdrPc rd w8, pc, 4, word pc), (.tLdrReg ro rb rd, r, 4, word r), (.tLdrbReg ro rb rd, r, 1, byte r),
           (.tLdrhReg ro rb rd, r, 2, half r), (.tLdsbReg ro rb rd, r, 1, sbyte r),
           (.tLdshReg ro rb rd, r, if r.getLsbD 0 then 1 else 2, shalf r),
           (.tLdrImm imm rb rd, i 4, 4, word (i 4)), (.tLdrbImm imm rb rd, i 1, 1, byte (i 1)),
           (.tLdrhImm imm rb rd, i 2, 2, half (i 2)), (.tLdrSp rd w8, sp, 4, word sp)],
      let n := q.2.2.1
      ∃ t, exec q.1 s = .next t ∧ t.readReg (low rd) = q.2.2.2 ∧ t.cpsr = s.cpsr ∧ Frame s t [low rd] ∧
        Advanced s t (saveReads (alignTo q.2.1 n) n)

/-- The seven THUMB stores: address, bytes stored, and frame (R83, R360, R362, R363, R366, R370, R372, R374, R376). The operations
of the THUMB formats are general knowledge the spec adopts (G15, log 30). -/
def Obligations.ThumbStores : Prop :=
  ∀ (s : State) (ro rb rd : LowReg) (imm : BitVec 5) (w8 : BitVec 8),
    let r := s.readReg (low rb) + s.readReg (low ro)
    let i := fun (k : Nat) => s.readReg (low rb) + BitVec.ofNat 32 (k * imm.toNat)
    ∀ q ∈ [(Instr.tStrReg ro rb rd, r, 4), (.tStrbReg ro rb rd, r, 1), (.tStrhReg ro rb rd, r, 2), (.tStrImm imm rb rd, i 4, 4),
           (.tStrbImm imm rb rd, i 1, 1), (.tStrhImm imm rb rd, i 2, 2),
           (.tStrSp rd w8, s.readReg 13 + BitVec.ofNat 32 (4 * w8.toNat), 4)],
      let ea := alignTo q.2.1 q.2.2
      let n := q.2.2
      ∃ t, exec q.1 s = .next t ∧ t.cpsr = s.cpsr ∧ SameMemoryBut s t ea n ∧
        (Memory.wf s.mem = true → (∀ k < n, isRam (ea + BitVec.ofNat 32 k) = true) → HoldsBytes t ea n (s.readReg (low rd))) ∧
        ((∀ k < n, ∀ o, region (ea + BitVec.ofNat 32 k) ≠ .io o) → SameDevices s t) ∧
        SameRegs s t [] ∧ SameSpsrs s t ∧ Advanced s t (saveWrites ea (s.readReg (low rd)) n)

/-- PUSH and STMIA of a non-empty list: the words stored in ascending order, the base updated, the frame; PUSH stores below SP and
LR last; STMIA stores Rb as the updated base when Rb is listed and not first (R382, R384; that last clause is the spec's choice, log
13). The operations of the THUMB formats are general knowledge the spec adopts (G15, log 30). -/
def Obligations.ThumbBlockStores : Prop :=
  ∀ (s : State) (lr : Bool) (list : BitVec 8) (rb : LowReg),
    let ps := lowRegList list ++ (if lr then [14] else [])
    let rs := lowRegList list
    let sp := s.readReg 13 - BitVec.ofNat 32 (4 * ps.length)
    let fin := s.readReg (low rb) + BitVec.ofNat 32 (4 * rs.length)
    ∀ q ∈ [(Instr.tPush lr list, (13 : Reg), ps, sp, sp, fun (_ : Nat) (r : Reg) => s.readReg r),
           (.tStmia rb list, low rb, rs, s.readReg (low rb), fin,
             fun (k : Nat) (r : Reg) => if r = low rb ∧ k ≠ 0 then fin else s.readReg r)],
      let start := alignTo q.2.2.2.1 4
      let n := q.2.2.1.length
      q.2.2.1 ≠ [] →
      ∃ t, exec q.1 s = .next t ∧ t.cpsr = s.cpsr ∧ t.readReg q.2.1 = q.2.2.2.2.1 ∧
        (Memory.wf s.mem = true → (∀ k < 4 * n, isRam (start + BitVec.ofNat 32 k) = true) →
          ∀ k (hk : k < q.2.2.1.length), HoldsBytes t (start + BitVec.ofNat 32 (4 * k)) 4 (q.2.2.2.2.2 k q.2.2.1[k])) ∧
        SameMemoryBut s t start (4 * n) ∧
        ((∀ k < 4 * n, ∀ o, region (start + BitVec.ofNat 32 k) ≠ .io o) → SameDevices s t) ∧
        SameRegs s t [q.2.1] ∧ SameSpsrs s t ∧
        Advanced s t (saveWords start (q.2.2.1.zipIdx.map fun x => q.2.2.2.2.2 x.2 x.1))

/-- POP and LDMIA of a non-empty list: the words loaded in ascending order; SP goes up by the size of the block; Rb goes up unless
it is loaded; PC in the list of POP branches and never changes T (R383, R385). The operations of the THUMB formats are general
knowledge the spec adopts (G15, log 30). -/
def Obligations.ThumbBlockLoads : Prop :=
  ∀ (s : State) (pc : Bool) (list : BitVec 8) (rb : LowReg),
    let ps := lowRegList list ++ (if pc then [15] else [])
    let rs := lowRegList list
    let sp := s.readReg 13
    let base := s.readReg (low rb)
    let popped := saveReads (alignTo sp 4) (4 * ps.length)
    (ps ≠ [] →
      ∃ t, exec (.tPop pc list) s = .next t ∧ t.cpsr = s.cpsr ∧ t.readReg 13 = sp + BitVec.ofNat 32 (4 * ps.length) ∧
        (∀ q ∈ ps.zip (s.readWords sp ps.length).1, q.1 ≠ 15 → t.readReg q.1 = q.2) ∧
        (∀ q ∈ ps.zip (s.readWords sp ps.length).1, q.1 = 15 → Branched s t q.2 popped) ∧
        (pc = false → Advanced s t popped) ∧ Frame s t (13 :: ps)) ∧
    (list ≠ 0 →
      ∃ t, exec (.tLdmia rb list) s = .next t ∧ t.cpsr = s.cpsr ∧
        (low rb ∉ rs → t.readReg (low rb) = base + BitVec.ofNat 32 (4 * rs.length)) ∧
        (∀ q ∈ rs.zip (s.readWords base rs.length).1, t.readReg q.1 = q.2) ∧
        Advanced s t (saveReads (alignTo base 4) (4 * rs.length)) ∧ Frame s t (low rb :: rs))

/-! ## Exceptions and reset -/

/-- IRQ entry: the CPSR is saved in SPSR_irq, R14_irq takes the next instruction's address plus 4, the mode becomes irq with T = 0 and
I = 1, N, Z, C, V and F stay, R15 becomes 0x18 and the pipeline is invalid; nothing else changes, and the next CPU step is the refill
from there (R426). -/
def Obligations.IrqEntrySavesAndVectors : Prop :=
  ∀ s : State, s.halted = false → s.irqTaken = true →
    ∃ t, s.cpuStep = .next (t, .irqEntry) ∧
      Entered s t .irq ((if s.pipeValid then s.r15 - 2 * s.iszWord else s.r15) + 4) ∧
      t.cpsr = { s.cpsr with mode := 0x12, t := false, i := true } ∧ t.spsrIrq = s.cpsr ∧ t.r15 = 0x18 ∧
      t.diags = s.diags ∧ t.cpuStep = .next (t.refill, .refill)

/-- A halted CPU step changes nothing; the device phases run as usual and leave the CPU alone; when one of them has cleared `halted`,
the next CPU step starts with the IRQ test: an IRQ entry that returns to the instruction after the halting store, or else that
instruction (R452). -/
def Obligations.HaltedCpuWaits : Prop :=
  ∀ s : State, s.halted = true →
    s.cpuStep = .next (s, .halted) ∧
    (s.keyInput = [] → step s = .next (s.devices s.params.cycles.halted.val)) ∧
    (∀ c : Nat,
      let t := s.devices c
      t.gpr = s.gpr ∧ t.cpsr = s.cpsr ∧ SameSpsrs s t ∧ t.nextExecAddr = s.nextExecAddr ∧ t.current = s.current ∧
      (t.halted = false → t.irqTaken = true →
        ∃ u, t.cpuStep = .next (u, .irqEntry) ∧ Entered t u .irq (s.nextExecAddr + 4)) ∧
      (t.halted = false → t.irqTaken = false → t.cpuStep = if s.pipeValid then t.execute else .next (t.refill, .refill)))

/-- SUBS PC, LR, #4 executed in irq mode with the link and the SPSR an IRQ entry left goes back to the interrupted instruction with
the interrupted status: entry and return are inverse (R426, R428, R179). The copy of the SPSR is general knowledge the spec adopts
(G7, log 30). -/
def Obligations.IrqReturnResumes : Prop :=
  ∀ s h : State, h.cpsr.mode = 0x12 → h.spsrIrq = s.cpsr → h.readBank .irq 14 = s.nextExecAddr + 4 →
    ∃ t, exec (.sub .al true 14 15 (.imm 0 4)) h = .next t ∧ t.cpsr = s.cpsr ∧
      t.r15 = alignPc s.cpsr.t s.nextExecAddr ∧ t.pipeValid = false ∧ Frame h t [] ∧ SaveGrew h t []

/-- The state after reset, without a BIOS image and with one: registers, status, the parameters and inputs given, RAM zero, everything
outside the CPU and RAM zero, no diagnostic and no pixel emitted, and the invariants of the step when the images are canonical (R521 to
R524). The values of I and F, the flags, the SPSRs, the pipeline, the halt flag and the interrupt, DMA, timer, LCD and key registers are
the spec's choice D7 (log 32); that the stored VCount flag is 0 is R41 (log 25). -/
def Obligations.ResetState : Prop :=
  ∀ (params : Config.Params) (images : List Host.Cell) (save : Option (List Config.SaveEvent)) (keys : List (BitVec 10)),
    let s := State.resetWith params images save keys
    s.pipeValid = false ∧ (∀ b, s.spsrOf b = none ∨ s.spsrOf b = some (Psr.ofWord 0)) ∧ s.params = params ∧ s.save = save ∧
    s.keyState = 0 ∧ s.readKeyinput = 0x03FF ∧ s.keyInput = keys ∧ (∀ a, isRam a = true → (s.busReadByte a).1 = 0) ∧
    s.halted = false ∧ s.ie = 0 ∧ s.iflag = 0 ∧ s.ime = false ∧ s.keycnt = 0 ∧
    (∀ n : Fin 4, s.dma[n] = { sad := 0, dad := 0, cntL := 0, cntH := 0, curSrc := 0, curDst := 0, remaining := 0, delay := 0, go := false } ∧
      s.timers[n] = { reload := 0, counter := 0, control := 0, acc := 0 } ∧
      s.lcd.bgcnt[n] = 0 ∧ s.lcd.bgXofs[n] = 0 ∧ s.lcd.bgYofs[n] = 0) ∧
    s.vblankPulse = false ∧ s.hblankPulse = false ∧ s.lcd.scanline = 0 ∧ s.lcd.cycle = 0 ∧ s.lcd.vblank = false ∧ s.lcd.hblank = false ∧
    s.lcd.vcountMatch = false ∧ s.lcd.dispcnt = 0 ∧ s.lcd.dispstat = 0 ∧ s.diags = [] ∧ s.pixels = [] ∧
    (params.biosPresent = false → s.r15 = 0x08000000 ∧ s.cpsr = Psr.ofWord 0x0000001F ∧
      s.readBank .usr 13 = 0x03007F00 ∧ s.readBank .svc 13 = 0x03007FE0 ∧ s.readBank .irq 13 = 0x03007FA0 ∧
      (∀ (b : Bank) (r : Reg), r ≠ 15 → (r = 13 → b = .fiq ∨ b = .abt ∨ b = .und) → s.readBank b r = 0)) ∧
    (params.biosPresent = true → s.r15 = 0 ∧ s.cpsr = Psr.ofWord 0x000000D3 ∧ (∀ (b : Bank) (r : Reg), s.readBank b r = 0)) ∧
    (Memory.wf images = true → Memory.wf s.mem = true ∧ PcInv s ∧ IrqInv s ∧ LcdInv s)

/-! ## Whole-machine rules -/

/-- An instruction executed in usr mode, other than SWI, leaves the mode, I and F, every SPSR and every register banked outside the usr
bank as they were: the only ways out of usr mode are an IRQ and SWI (R421, R422). -/
def Obligations.UserModeStaysConfined : Prop :=
  ∀ (i : Instr) (s t : State), s.cpsr.mode = 0x10 → (∀ c n, i ≠ .swi c n) → (∀ n, i ≠ .tSwi n) → exec i s = .next t →
    t.cpsr.mode = 0x10 ∧ t.cpsr.i = s.cpsr.i ∧ t.cpsr.f = s.cpsr.f ∧ SameSpsrs s t ∧
    (∀ (b : Bank) (r : Reg), r ≠ 15 → (∀ q : Reg, physIndex b r ≠ physIndex .usr q) → t.readBank b r = s.readBank b r)

/-- Every step keeps the memory list in its canonical form: equal memories are equal data (log 3). -/
def Obligations.StepKeepsMemoryCanonical : Prop :=
  ∀ s t : State, Memory.wf s.mem = true → step s = .next t → Memory.wf t.mem = true

/-- Every step keeps R15 aligned to the instruction size of the state (R32, R151 to R154; aligning by the state after the instruction
is the spec's choice D16, log 5), with no write to it pending: pcWrite is a field of the model's own (DESIGN CHOICE, log 31). -/
def Obligations.StepKeepsPcAligned : Prop := ∀ s t : State, PcInv s → step s = .next t → PcInv t

/-- Every step keeps the halt invariant, that a halted CPU has no enabled interrupt pending, and keeps the IF bits that nothing
requests (7, 13, 14, 15) at 0 (R440, R446; the halt release as a level, R451, is the spec's choice, D26). -/
def Obligations.StepKeepsHaltInvariant : Prop := ∀ s t : State, IrqInv s → step s = .next t → IrqInv t

/-- Every step keeps the LCD counters in range and the VBlank and HBlank flags equal to what the counters say (R489 to R491; that the
HBlank flag is 1 from cycle 960 of every one of the 228 lines is the spec's choice D32). -/
def Obligations.StepKeepsLcdRanges : Prop := ∀ s t : State, LcdInv s → step s = .next t → LcdInv t

/-- No step changes a byte of the BIOS or ROM image or a parameter: whatever the CPU and the DMA write, they are read-only
(R6, R64, R65, R67). -/
def Obligations.StepKeepsImages : Prop :=
  ∀ s t : State, step s = .next t →
    t.params = s.params ∧
    ∀ a, (∃ o, region a = .bios o ∨ region a = .rom o) → (t.busReadByte a).1 = (s.busReadByte a).1

/-- The DMA phase: an enabled channel's delay goes down by the cycles, not below 0; a channel is due when it is enabled, its delay is 0
and its timing is immediate, or VBlank or HBlank with that pulse; special timing is never due; then the due channels run in ascending
order, each unless an earlier one has disabled it. At every step boundary the go bits and the two pulses are 0 (R464 to R466, R471,
R474). The delay counted from the phase of the enabling step, the pulse lost while it runs and special timing are the spec's choice D29
(log 26); the places of the control bits are general knowledge it adopts (G17, log 30). -/
def Obligations.DmaPhaseStartsDueChannels : Prop :=
  (∀ (s : State) (c : Nat),
    let t := s.dmaSchedule c
    let turn := fun (u : State) (n : Fin 4) =>
      let u' := if u.dma[n].go = true ∧ u.dma[n].cntH.getLsbD 15 = true then u.dmaRun n else u
      { u' with dma := u'.dma.set n { u'.dma[n] with go := false } }
    (∀ n : Fin 4,
      let ch := s.dma[n]
      let on := ch.cntH.getLsbD 15
      let timing := ch.cntH.extractLsb' 12 2
      let delay := if on then ch.delay - c else ch.delay
      t.dma[n] = { ch with delay := delay, go := t.dma[n].go } ∧
      (t.dma[n].go = true ↔ on = true ∧ delay = 0 ∧
        (timing = 0 ∨ (timing = 1 ∧ s.vblankPulse = true) ∨ (timing = 2 ∧ s.hblankPulse = true)))) ∧
    t = { s with dma := t.dma, vblankPulse := false, hblankPulse := false } ∧
    s.dmaAdvance c = turn (turn (turn (turn t 0) 1) 2) 3) ∧
  (∀ s t : State, step s = .next t → t.vblankPulse = false ∧ t.hblankPulse = false ∧ ∀ n : Fin 4, t.dma[n].go = false)

/-! ## Bus and interrupt controller -/

/-- RAM reads back what was written, for bytes, halfwords and words, and nothing else changes; two halfwords make the little-endian
word (R69; the document's properties 2 and 3). -/
def Obligations.RamReadsBack : Prop :=
  ∀ (s : State) (a v : Word), Memory.wf s.mem = true → isRam (alignTo a 4) = true →
    ((s.memWrite a 4 v).memRead a 4).1 = v ∧
    ((s.memWrite a 2 v).memRead a 2).1 = v &&& 0xFFFF ∧
    ((s.memWrite a 1 v).memRead a 1).1 = v &&& 0xFF ∧
    (a = alignTo a 4 → (((s.memWrite a 2 v).memWrite (a + 2) 2 (v >>> 16)).memRead a 4).1 = v) ∧
    (∀ n, n = 1 ∨ n = 2 ∨ n = 4 →
      (∃ m, s.memWrite a n v = { s with mem := m }) ∧ SameMemoryBut s (s.memWrite a n v) (alignTo a n) n)

/-- EWRAM repeats every 0x40000 bytes, IWRAM every 0x8000, the ROM every 0x02000000 (R60 to R62; no other mirror: D9). A byte, halfword
or word access to an address above the map, to an unused region or beyond a region that does not repeat gives the unused value in
every byte and one diagnostic when read, and is dropped with one diagnostic when written (R63; D8). The BIOS and ROM images are read
and not written; a write leaves the read-only diagnostic; without a BIOS image its range is unmapped, and so is a ROM byte beyond
ROM_LEN when read (R64, R65, R67; these three are D10). The save device, where there is one, gets a byte access at each offset, and
answers each with the accesses before it; without one its range is unmapped (R68; D11, log 17). The bytes of an access are handled in
ascending order (R70; D12). D8 to D12 are choices of the spec (log 27). -/
def Obligations.AddressMapEdges : Prop :=
  ∀ (s : State) (a v : Word) (n : Nat), n = 1 ∨ n = 2 ∨ n = 4 →
    let u := s.params.unusedValue
    let ea := alignTo a n
    let reads := fun (byte : Nat → Byte) (t : State) =>
      (∀ k < n, (s.memRead a n).1.extractLsb' (8 * k) 8 = byte k) ∧ (s.memRead a n).1.toNat < 2 ^ (8 * n) ∧ (s.memRead a n).2 = t
    let unmapped := reads (fun _ => u) (s.emit .unmappedRead ea) ∧ s.memWrite a n v = s.emit .unmappedWrite ea
    (0x02000000 ≤ a.toNat → a.toNat < 0x03000000 - 0x40000 → region (a + 0x40000) = region a) ∧
    (0x03000000 ≤ a.toNat → a.toNat < 0x04000000 - 0x8000 → region (a + 0x8000) = region a) ∧
    (0x08000000 ≤ a.toNat → a.toNat < 0x0C000000 → region (a + 0x02000000) = region a) ∧
    ((0x10000000 ≤ a.toNat ∨ (0x00004000 ≤ a.toNat ∧ a.toNat < 0x02000000) ∨ (0x04000400 ≤ a.toNat ∧ a.toNat < 0x05000000) ∨
      (0x05000400 ≤ a.toNat ∧ a.toNat < 0x06000000) ∨
      (0x06018000 ≤ a.toNat ∧ a.toNat < 0x07000000) ∨ (0x07000400 ≤ a.toNat ∧ a.toNat < 0x08000000) ∨
      (0x0E010000 ≤ a.toNat ∧ a.toNat < 0x10000000)) → unmapped) ∧
    (a.toNat < 0x4000 →
      (s.params.biosPresent = true →
        reads (fun k => Memory.read s.mem (ea.toNat + k)) s ∧ s.memWrite a n v = s.emit .readonlyWrite ea) ∧
      (s.params.biosPresent = false → unmapped)) ∧
    (0x08000000 ≤ a.toNat → a.toNat < 0x0E000000 →
      let o := ea.toNat % 0x02000000
      let len := s.params.romLen.val
      reads (fun k => if o + k < len then Memory.read s.mem (0x08000000 + (o + k)) else u)
        (if o + n ≤ len then s else s.emit .unmappedRead ea) ∧
      s.memWrite a n v = s.emit .readonlyWrite ea) ∧
    (0x0E000000 ≤ a.toNat → a.toNat < 0x0E010000 →
      (∀ h, s.save = some h →
        let off := fun (k : Nat) => (ea + BitVec.ofNat 32 k).setWidth 16
        let seen := fun (m : Nat) => ((List.range m).map fun k => Config.SaveEvent.read (off k)).reverse
        let writes := ((List.range n).map fun k => Config.SaveEvent.write (off k) (v.extractLsb' (8 * k) 8)).reverse
        reads (fun k => Config.saveRead (seen k ++ h) (off k)) { s with save := some (seen n ++ h) } ∧
        s.memWrite a n v = { s with save := some (writes ++ h) }) ∧
      (s.save = none → unmapped))

/-- `request` sets its IF bit and releases the halt if the bit is enabled. A byte write to an I/O register, register by register: IF
loses exactly the bits written as 1; IE takes the byte and releases the halt if an enabled interrupt is pending; IME keeps bit 0; HALTCNT
halts unless one is pending, and its bit 7 does nothing but a diagnostic; timer control bit 7 going from 0 to 1 loads the counter and
clears the accumulator, no other write touches them; the count register of a timer takes the reload value; DISPSTAT keeps bits 2:0, which
are read-only; a scroll register has 9 bits; VCOUNT and KEYINPUT drop the write; DISPCNT, BGnCNT, KEYCNT, the DMA addresses and counts and
the low byte of the DMA control word store the byte and start nothing (R75, R441 to R444, R450, R460, R480, R482, R485, R488, R493, R497,
R498). Choices of the spec: the rules inside a register D12; the release at a write and bit 7 of HALTCNT D26; the high byte of IME D27;
the cleared accumulator and the shared address D31 (logs 26 and 27). That timer control bit 7 is the enable bit, and the other places of
the control bits, are general knowledge it adopts (R481, G17 to G20, logs 26 and 30); that the high byte of a scroll register gives bit
8 alone is the model's DEDUCED reading (log 27). -/
def Obligations.InterruptRequestsAndIoWrites : Prop :=
  ∀ (s : State) (line : Nat) (n : Fin 4) (b : Byte), line < 14 →
    let l := s.lcd
    let tm := s.timers[n]
    let ch := s.dma[n]
    let lo := fun (h : Half) => h.extractLsb' 8 8 ++ b
    let hi := fun (h : Half) => b ++ h.extractLsb' 0 8
    let edge := tm.control.getLsbD 7 = false ∧ b.getLsbD 7 = true
    let lcd := fun (l' : Lcd) => { s with lcd := l' }
    let timer := fun (tm' : Timer) => { s with timers := s.timers.set n tm' }
    let dma := fun (ch' : DmaChannel) => { s with dma := s.dma.set n ch' }
    let ie := fun (v : Half) => { s with ie := v, halted := s.halted && decide (s.iflag &&& v = 0) }
    (∀ k, (s.request line).iflag.getLsbD k = (s.iflag.getLsbD k || decide (k = line))) ∧
    (s.request line).halted = (s.halted && decide ((s.request line).iflag &&& s.ie = 0)) ∧
    { s.request line with iflag := s.iflag, halted := s.halted } = s ∧
    (∀ q ∈ [(0x000, lcd { l with dispcnt := lo l.dispcnt }), (0x001, lcd { l with dispcnt := hi l.dispcnt }),
            (0x004, lcd { l with dispstat := l.dispstat.extractLsb' 8 8 ++ (b &&& 0xF8) }), (0x005, lcd { l with dispstat := hi l.dispstat }),
            (0x006, s), (0x007, s),
            (0x008 + 2 * n.val, lcd { l with bgcnt := l.bgcnt.set n (lo l.bgcnt[n]) }),
            (0x009 + 2 * n.val, lcd { l with bgcnt := l.bgcnt.set n (hi l.bgcnt[n]) }),
            (0x010 + 4 * n.val, lcd { l with bgXofs := l.bgXofs.set n (l.bgXofs[n].extractLsb' 8 1 ++ b) }),
            (0x011 + 4 * n.val, lcd { l with bgXofs := l.bgXofs.set n (b.extractLsb' 0 1 ++ l.bgXofs[n].extractLsb' 0 8) }),
            (0x012 + 4 * n.val, lcd { l with bgYofs := l.bgYofs.set n (l.bgYofs[n].extractLsb' 8 1 ++ b) }),
            (0x013 + 4 * n.val, lcd { l with bgYofs := l.bgYofs.set n (b.extractLsb' 0 1 ++ l.bgYofs[n].extractLsb' 0 8) }),
            (0x0B8 + 12 * n.val, dma { ch with cntL := lo ch.cntL }), (0x0B9 + 12 * n.val, dma { ch with cntL := hi ch.cntL }),
            (0x0BA + 12 * n.val, dma { ch with cntH := lo ch.cntH }),
            (0x100 + 4 * n.val, timer { tm with reload := lo tm.reload }), (0x101 + 4 * n.val, timer { tm with reload := hi tm.reload }),
            (0x102 + 4 * n.val, timer { tm with counter := if edge then tm.reload else tm.counter, control := lo tm.control
                                                acc := if edge then 0 else tm.acc }),
            (0x103 + 4 * n.val, timer { tm with control := hi tm.control }),
            (0x130, s), (0x131, s), (0x132, { s with keycnt := lo s.keycnt }), (0x133, { s with keycnt := hi s.keycnt }),
            (0x200, ie (lo s.ie)), (0x201, ie (hi s.ie)),
            (0x202, { s with iflag := s.iflag &&& ~~~(b.setWidth 16) }), (0x203, { s with iflag := s.iflag &&& ~~~(b.setWidth 16 <<< 8) }),
            (0x208, { s with ime := b.getLsbD 0 }), (0x209, s),
            (0x301, if b.getLsbD 7 then s.emit .stopNotImplemented (b.setWidth 32)
              else { s with halted := decide (s.iflag &&& s.ie = 0) })],
      s.busWriteByte (BitVec.ofNat 32 (0x04000000 + q.1)) b = q.2) ∧
    (∀ k < 4, ∃ sad dad : Word,
      s.busWriteByte (BitVec.ofNat 32 (0x040000B0 + 12 * n.val + k)) b = dma { ch with sad := sad } ∧
      s.busWriteByte (BitVec.ofNat 32 (0x040000B4 + 12 * n.val + k)) b = dma { ch with dad := dad } ∧
      ∀ j < 4, sad.extractLsb' (8 * j) 8 = (if j = k then b else ch.sad.extractLsb' (8 * j) 8) ∧
        dad.extractLsb' (8 * j) 8 = (if j = k then b else ch.dad.extractLsb' (8 * j) 8))

/-- Every halfword read of an I/O register gives the value its rule says and changes nothing, not even the diagnostics: write-only
registers read 0, DISPSTAT has the three flags in bits 2:0, VCOUNT is the line, a count register reads the counter, KEYINPUT is the
complement of the pressed buttons, IE, IF and IME read as they are; a byte read gives its byte of the halfword (R73 to R76, R447, R473,
R485, R492, R493, R498; reading 0 from write-only registers, the widths and the map are the spec's choices D12, D27, D28, D30, D31 and
general knowledge it adopts, G17 to G20, log 27, log 30). That DISPSTAT bit 2 is computed at the read as line = setting is the spec's
choice D32 (R492); that the stored VCount flag is therefore read by nothing is DEDUCED (log 25). -/
def Obligations.IoRegisterReads : Prop :=
  ∀ (s : State) (n : Fin 4) (a : Word),
    let l := s.lcd
    let dispstat : Half := (l.dispstat &&& 0xFFF8) ||| (if l.vblank then 1 else 0) ||| (if l.hblank then 2 else 0) |||
      (if l.scanline = (l.dispstat.extractLsb' 8 8).toNat then 4 else 0)
    (∀ q ∈ [(0x000, l.dispcnt), (0x004, dispstat), (0x006, BitVec.ofNat 16 l.scanline), (0x008 + 2 * n.val, l.bgcnt[n]),
            (0x010 + 4 * n.val, (0 : Half)), (0x012 + 4 * n.val, 0),
            (0x0B0 + 12 * n.val, 0), (0x0B2 + 12 * n.val, 0), (0x0B4 + 12 * n.val, 0), (0x0B6 + 12 * n.val, 0),
            (0x0B8 + 12 * n.val, 0), (0x0BA + 12 * n.val, s.dma[n].cntH),
            (0x100 + 4 * n.val, s.timers[n].counter), (0x102 + 4 * n.val, s.timers[n].control),
            (0x130, (~~~s.keyState).setWidth 16), (0x132, s.keycnt), (0x200, s.ie), (0x202, s.iflag),
            (0x208, if s.ime then 1 else 0)],
      s.memRead (BitVec.ofNat 32 (0x04000000 + q.1)) 2 = (q.2.setWidth 32, s)) ∧
    s.memRead 0x04000301 1 = (0, s) ∧
    (∀ o, region a = .io o → (s.memRead a 1).1 = ((s.memRead a 2).1 >>> (8 * (a.toNat % 2))) &&& 0xFF)

/-! ## Devices -/

/-- The 0 to 1 edge of a DMA enable bit latches the masked addresses, the count (0 meaning the maximum) and the startup delay; a write
that leaves the bit at 1 latches nothing; a 1 to 0 change clears the delay. An edge with special timing leaves a diagnostic; the other
channels and everything else are unchanged (R462, R463, R466, R472; the destination mask, the zero count, the cleared delay and special
timing are the spec's choices D28 and D29; the places of the control bits are general knowledge it adopts, G17, log 26, log 30). -/
def Obligations.DmaEnableEdge : Prop :=
  ∀ (s : State) (n : Fin 4) (b : Byte),
    let a := BitVec.ofNat 32 (0x040000BB + 12 * n.val)
    let ch := s.dma[n]
    let t := s.busWriteByte a b
    let mask : Word := if n = 3 then 0x0FFFFFFF else 0x07FFFFFF
    let c := if n = 3 then ch.cntL.toNat else ch.cntL.toNat % 0x4000
    t.dma[n].cntH = b ++ ch.cntH.extractLsb' 0 8 ∧
    t.dma[n].sad = ch.sad ∧ t.dma[n].dad = ch.dad ∧ t.dma[n].cntL = ch.cntL ∧ t.dma[n].go = ch.go ∧
    (ch.cntH.getLsbD 15 = false → b.getLsbD 7 = true →
      t.dma[n].curSrc = ch.sad &&& mask ∧ t.dma[n].curDst = ch.dad &&& mask ∧ t.dma[n].delay = s.params.dmaStartDelay ∧
      t.dma[n].remaining = (if c = 0 then (if n = 3 then 0x10000 else 0x4000) else c)) ∧
    (ch.cntH.getLsbD 15 = true ∨ b.getLsbD 7 = false →
      t.dma[n].curSrc = ch.curSrc ∧ t.dma[n].curDst = ch.curDst ∧ t.dma[n].remaining = ch.remaining ∧
      t.dma[n].delay = (if ch.cntH.getLsbD 15 = true ∧ b.getLsbD 7 = false then 0 else ch.delay)) ∧
    t.diags = (if ch.cntH.getLsbD 15 = false ∧ b.getLsbD 7 = true ∧ b.extractLsb' 4 2 = 3
      then ⟨.dmaSpecialNotImplemented, BitVec.ofNat 32 n.val⟩ :: s.diags else s.diags) ∧
    (∀ m : Fin 4, m ≠ n → t.dma[m] = s.dma[m]) ∧ { t with dma := s.dma, diags := s.diags } = s

/-- A DMA transfer of an enabled channel whose destinations are no I/O registers ends with its count used up, having moved both addresses
by the count times their steps, with the enable bit cleared or the channel re-armed for its next pulse, and IF bit 8 + n set if the end
IRQ is enabled (R467 to R469). Any transfer is a number of turns, at most the count, and runs one more turn exactly while units are left
and the channel is enabled: a transfer whose own write clears its enable bit stops there (R472), and with units left it does not
complete, which is the model's DESIGN CHOICE (log 19). The destination mask and the zero count of a re-armed channel and source control 3
as increment are the spec's choice D28, stopping a disabled channel its choice D29 (log 26); the places of the control bits are general
knowledge the spec adopts (G17, log 30). -/
def Obligations.DmaTransferCompletes : Prop :=
  (∀ (s : State) (n : Fin 4),
    let ch := s.dma[n]
    let unit := if ch.cntH.getLsbD 10 then 4 else 2
    let step := fun (ctl : BitVec 2) => if ctl = 1 then -(BitVec.ofNat 32 unit) else if ctl = 2 then 0 else BitVec.ofNat 32 unit
    let ds := step (ch.cntH.extractLsb' 5 2)
    let again := ch.cntH.getLsbD 9 && decide (ch.cntH.extractLsb' 12 2 ≠ 0)
    let t := s.dmaRun n
    ch.cntH.getLsbD 15 = true →
    (∀ k < ch.remaining, ∀ j < unit, ∀ o, region (alignTo (ch.curDst + BitVec.ofNat 32 k * ds) unit + BitVec.ofNat 32 j) ≠ .io o) →
    t.dma[n].curSrc = ch.curSrc + BitVec.ofNat 32 ch.remaining * step (ch.cntH.extractLsb' 7 2) ∧
    t.dma[n].curDst = (if again = true ∧ ch.cntH.extractLsb' 5 2 = 3 then ch.dad &&& dmaDstMask n
      else ch.curDst + BitVec.ofNat 32 ch.remaining * ds) ∧
    t.dma[n].remaining = (if again then dmaCount n ch.cntL else 0) ∧
    t.dma[n].cntH = (if again then ch.cntH else ch.cntH &&& 0x7FFF) ∧
    t.iflag = (if ch.cntH.getLsbD 14 then s.iflag ||| (1#16 <<< (8 + n.val)) else s.iflag) ∧
    (∀ m : Fin 4, m ≠ n → t.dma[m] = s.dma[m]) ∧ t.gpr = s.gpr ∧ t.r15 = s.r15 ∧ t.cpsr = s.cpsr ∧ t.ie = s.ie) ∧
  (∀ (s : State) (n : Fin 4),
    let ch := s.dma[n]
    let unit := if ch.cntH.getLsbD 10 then 4 else 2
    let start := if ch.cntH.extractLsb' 7 2 = 3 then s.emit (.unpredictable .dmaSourceControl) (BitVec.ofNat 32 n.val) else s
    let after := fun (k : Nat) => Nat.repeat (fun u => State.dmaUnit u n unit) k start
    ∃ k, k ≤ ch.remaining ∧
      (∀ j < k, (after j).dma[n].remaining ≠ 0 ∧ (after j).dma[n].cntH.getLsbD 15 = true) ∧
      ((after k).dma[n].remaining = 0 ∨ (after k).dma[n].cntH.getLsbD 15 = false) ∧
      s.dmaRun n = if (after k).dma[n].remaining = 0 then (after k).dmaComplete n else after k)

/-- One unit of a DMA transfer to RAM: the destination reads back what the source read as, every other byte of memory is unchanged, the
two addresses move by their steps and the count goes down by 1; nothing else changes but the diagnostics and the save device's history,
by the read alone (R467, R468; source control 3 as increment is the spec's choice D28, log 26; the places of the control bits are general
knowledge it adopts, G17, log 30). -/
def Obligations.DmaUnitCopies : Prop :=
  ∀ (s : State) (n : Fin 4) (unit : Nat), unit = 2 ∨ unit = 4 → Memory.wf s.mem = true →
    let src := s.dma[n].curSrc
    let dst := alignTo s.dma[n].curDst unit
    (∀ k < unit, isRam (dst + BitVec.ofNat 32 k) = true) →
    let t := s.dmaUnit n unit
    let ch := s.dma[n]
    let step := fun (ctl : BitVec 2) => if ctl = 1 then -(BitVec.ofNat 32 unit) else if ctl = 2 then 0 else BitVec.ofNat 32 unit
    HoldsBytes t dst unit (s.memRead src unit).1 ∧ SameMemoryBut s t dst unit ∧
    t.dma = s.dma.set n { ch with curSrc := ch.curSrc + step (ch.cntH.extractLsb' 7 2),
                                  curDst := ch.curDst + step (ch.cntH.extractLsb' 5 2), remaining := ch.remaining - 1 } ∧
    SaveGrew s t (saveReads (alignTo src unit) unit) ∧
    { t with mem := s.mem, dma := s.dma, save := s.save, diags := s.diags } = s

/-- A tick: below 0xFFFF the counter goes up by 1 and nothing else changes; at 0xFFFF it takes the reload value, requests its line if
enabled, and ticks the next timer exactly when that is enabled in count-up mode. So a counter at R overflows after 0x10000 - R
ticks; an enabled timer that does not count up ticks once for every full prescaler period of cycles (R481, R483, R484; the places of the
control bits 7, 6, 2 and 1:0 are general knowledge the spec adopts, G18, log 26, log 30). -/
def Obligations.TickAndCascade : Prop :=
  ∀ (s : State) (n : Fin 4) (c : Nat),
    let tm := s.timers[n]
    (tm.counter ≠ 0xFFFF →
      s.tick (timersFrom n) = { s with timers := s.timers.set n { tm with counter := tm.counter + 1 } }) ∧
    (tm.counter = 0xFFFF →
      let s1 : State := { s with timers := s.timers.set n { tm with counter := tm.reload } }
      let s2 := if tm.control.getLsbD 6 then s1.request (3 + n.val) else s1
      s.tick (timersFrom n) =
        if h : n.val < 3 then
          let m : Fin 4 := ⟨n.val + 1, by omega⟩
          if s.timers[m].control.getLsbD 7 = true ∧ s.timers[m].control.getLsbD 2 = true then s2.tick (timersFrom m) else s2
        else s2) ∧
    (∀ k, tm.counter.toNat + k < 0x10000 →
      s.tickTimes n k = { s with timers := s.timers.set n { tm with counter := tm.counter + BitVec.ofNat 16 k } }) ∧
    (tm.control.getLsbD 7 = true → tm.control.getLsbD 2 = false →
      let sel := tm.control.extractLsb' 0 2
      let period := if sel = 0 then 1 else if sel = 1 then 64 else if sel = 2 then 256 else 1024
      s.timerAdvance c n =
        ({ s with timers := s.timers.set n { tm with acc := (tm.acc + c) % period } } : State).tickTimes n ((tm.acc + c) / period))

/-- The LCD runs through a frame of 280896 cycles, 228 lines of 1232, one cycle after the other; VBlank is 1 in the last 68 lines and
HBlank from cycle 960 of every line (R489, R490; that it is every one of the 228 lines is the spec's choice D32). -/
def Obligations.LcdFramePosition : Prop :=
  ∀ (s : State) (c : Nat), LcdInv s →
    let p := (lcdPosition s + c) % 280896
    let t := s.lcdAdvance c
    t.lcd.scanline = p / 1232 ∧ t.lcd.cycle = p % 1232 ∧
    t.lcd.vblank = decide (160 ≤ p / 1232) ∧ t.lcd.hblank = decide (960 ≤ p % 1232)

/-- The LCD's requests: HBlank at cycle 960 of any line, VBlank on reaching scanline 160, VCount on reaching the set line, each under its
enable bit and otherwise not; the DMA pulses at the first two are unconditional (R490 to R492). -/
def Obligations.LcdRequests : Prop :=
  ∀ s : State, LcdInv s →
    let t := s.lcdCycle
    let line := if s.lcd.scanline = 227 then 0 else s.lcd.scanline + 1
    let wrap := s.lcd.cycle = 1231
    (∀ k, t.iflag.getLsbD k = (s.iflag.getLsbD k ||
      (decide (k = 1) && decide (s.lcd.cycle = 959) && s.lcd.dispstat.getLsbD 4) ||
      (decide (k = 0) && decide (wrap ∧ line = 160) && s.lcd.dispstat.getLsbD 3) ||
      (decide (k = 2) && decide (wrap ∧ line = (s.lcd.dispstat.extractLsb' 8 8).toNat) && s.lcd.dispstat.getLsbD 5))) ∧
    t.hblankPulse = (s.hblankPulse || decide (s.lcd.cycle = 959)) ∧
    t.vblankPulse = (s.vblankPulse || decide (wrap ∧ line = 160)) ∧
    (wrap → t.lcd.scanline = line ∧ t.lcd.cycle = 0) ∧ (¬ wrap → t.lcd.scanline = s.lcd.scanline ∧ t.lcd.cycle = s.lcd.cycle + 1) ∧
    t.gpr = s.gpr ∧ t.mem = s.mem

/-- A change of the key state requests line 12 exactly when the KEYCNT condition holds, AND over the selected buttons with bit 15, OR
without; a sample equal to the stored state requests nothing (R499). That bit 15 = 1 is AND is general knowledge the spec adopts
(R498, G20, log 30) and its choice D30, and so is that a sample which changes nothing is not evaluated (D30, log 23). -/
def Obligations.KeyInterruptCondition : Prop :=
  ∀ (s : State) (k : BitVec 10) (rest : List (BitVec 10)), s.keyInput = k :: rest →
    let t := s.sampleKeys
    let selected := fun (b : Nat) => s.keycnt.getLsbD b
    let holds := if s.keycnt.getLsbD 15 then (∀ b < 10, selected b = true → k.getLsbD b = true)
      else (∃ b < 10, selected b = true ∧ k.getLsbD b = true)
    t.keyState = k ∧ t.keyInput = rest ∧
    (k = s.keyState → t.iflag = s.iflag) ∧
    (k ≠ s.keyState → s.keycnt.getLsbD 14 = true → holds → t.iflag = s.iflag ||| 0x1000) ∧
    (k ≠ s.keyState → (s.keycnt.getLsbD 14 = false ∨ ¬ holds) → t.iflag = s.iflag) ∧
    t.gpr = s.gpr ∧ t.cpsr = s.cpsr ∧ t.mem = s.mem ∧ t.ie = s.ie
end

