-- ==== Sys2Proof/Laws/Memory.lean ====
section
/-! SUPPORT. Laws of the memory list: read after write, and the canonical form. -/

namespace Sys2Proof.Machine.Memory

theorem wfFrom_mono {lo hi : Nat} (h : lo ≤ hi) : ∀ {m : List Host.Cell}, wfFrom hi m = true → wfFrom lo m = true
  | [], _ => rfl
  | (k, v) :: rest, hm => by
    simp only [wfFrom, Bool.and_eq_true, decide_eq_true_eq] at hm ⊢
    exact ⟨⟨Nat.le_trans h hm.1.1, hm.1.2⟩, hm.2⟩

/-- Below the least address of a canonical list everything is unlisted. -/
theorem read_below {m : List Host.Cell} {lo a : Nat} (hm : wfFrom lo m = true) (ha : a < lo) : read m a = unlisted := by
  induction m generalizing lo with
  | nil => rfl
  | cons c rest ih =>
    obtain ⟨k, v⟩ := c
    simp only [wfFrom, Bool.and_eq_true, decide_eq_true_eq] at hm
    have hk : k ≠ a := by omega
    simp only [read, hk, if_false]
    exact ih hm.2 (by omega)

/-- A write keeps the canonical form. -/
theorem wfFrom_write {lo a : Nat} {b : Byte} (ha : lo ≤ a) :
    ∀ {m : List Host.Cell}, wfFrom lo m = true → wfFrom lo (write m a b) = true
  | [], _ => by
    unfold write
    by_cases hb : b = unlisted
    · simp [hb, wfFrom]
    · simp [hb, wfFrom, ha]
  | (k, v) :: rest, hm => by
    have hm' := hm
    simp only [wfFrom, Bool.and_eq_true, decide_eq_true_eq] at hm'
    obtain ⟨⟨hk, hv⟩, hr⟩ := hm'
    unfold write
    by_cases h1 : a < k
    · by_cases hb : b = unlisted
      · simpa [h1, hb] using hm
      · simp only [h1, hb, if_true, if_false, wfFrom, Bool.and_eq_true, decide_eq_true_eq]
        exact ⟨⟨ha, hb⟩, ⟨by omega, hv⟩, hr⟩
    · by_cases h2 : k = a
      · subst h2
        by_cases hb : b = unlisted
        · simp only [Nat.lt_irrefl, hb, if_true, if_false]
          exact wfFrom_mono (by omega) hr
        · simp only [Nat.lt_irrefl, hb, if_true, if_false, wfFrom, Bool.and_eq_true, decide_eq_true_eq]
          exact ⟨⟨ha, hb⟩, hr⟩
      · simp only [h1, h2, if_false, wfFrom, Bool.and_eq_true, decide_eq_true_eq]
        exact ⟨⟨hk, hv⟩, wfFrom_write (by omega) hr⟩

theorem wf_write {m : List Host.Cell} (a : Nat) (b : Byte) (hm : wf m = true) : wf (write m a b) = true :=
  wfFrom_write (Nat.zero_le a) hm

theorem wfFrom_filter (p : Host.Cell → Bool) : ∀ {lo : Nat} {m : List Host.Cell}, wfFrom lo m = true → wfFrom lo (m.filter p) = true
  | _, [], _ => rfl
  | lo, (k, v) :: rest, h => by
    simp only [wfFrom, Bool.and_eq_true] at h
    rw [List.filter_cons]
    split
    · simp only [wfFrom, Bool.and_eq_true]; exact ⟨h.1, wfFrom_filter p h.2⟩
    · exact wfFrom_mono (Nat.le_succ_of_le (of_decide_eq_true h.1.1)) (wfFrom_filter p h.2)

/-- A part of a canonical memory is canonical. -/
theorem wf_filter (p : Host.Cell → Bool) {m : List Host.Cell} (h : wf m = true) : wf (m.filter p) = true := wfFrom_filter p h

theorem wf_writeBytes (bs : List Byte) : ∀ (m : List Host.Cell) (a : Nat), wf m = true → wf (writeBytes m a bs) = true := by
  induction bs with
  | nil => exact fun _ _ h => h
  | cons b rest ih => exact fun m a h => ih _ _ (wf_write a b h)

/-- A read after a write to the same address gives the byte written. -/
theorem read_write_same {lo a : Nat} {b : Byte} : ∀ {m : List Host.Cell}, wfFrom lo m = true → read (write m a b) a = b
  | [], _ => by
    unfold write
    by_cases hb : b = unlisted <;> simp [hb, read]
  | (k, v) :: rest, hm => by
    have hm' := hm
    simp only [wfFrom, Bool.and_eq_true, decide_eq_true_eq] at hm'
    obtain ⟨⟨_, _⟩, hr⟩ := hm'
    unfold write
    by_cases h1 : a < k
    · by_cases hb : b = unlisted
      · have hka : k ≠ a := by omega
        simp only [h1, hb, if_true, read, hka, if_false]
        exact read_below hr (by omega)
      · simp [h1, hb, read]
    · by_cases h2 : k = a
      · subst h2
        by_cases hb : b = unlisted
        · simp only [Nat.lt_irrefl, hb, if_true, if_false]
          exact read_below hr (by omega)
        · simp [hb, read]
      · simp only [h1, h2, if_false, read]
        exact read_write_same hr

/-- A write leaves every other address alone. -/
theorem read_write_other {a x : Nat} {b : Byte} (hx : x ≠ a) : ∀ {m : List Host.Cell}, read (write m a b) x = read m x
  | [] => by
    unfold write
    by_cases hb : b = unlisted
    · simp [hb]
    · simp [hb, read, hx.symm]
  | (k, v) :: rest => by
    unfold write
    by_cases h1 : a < k
    · by_cases hb : b = unlisted
      · simp [h1, hb]
      · simp [h1, hb, read, hx.symm]
    · by_cases h2 : k = a
      · subst h2
        by_cases hb : b = unlisted <;> simp [hb, read, hx.symm]
      · simp only [h1, h2, if_false, read]
        split
        · rfl
        · exact read_write_other hx

theorem read_write {m : List Host.Cell} (hm : wf m = true) (a x : Nat) (b : Byte) :
    read (write m a b) x = if x = a then b else read m x := by
  by_cases hx : x = a
  · subst hx; simp [read_write_same hm]
  · simp [hx, read_write_other hx]

end Sys2Proof.Machine.Memory
end

