-- ==== Sys2Proof/Laws/State.lean ====
section
/-! SUPPORT. One lemma per field per named update of State, so that no proof unfolds a record update. -/

namespace Sys2Proof.Machine
namespace State

@[simp] theorem begin_gpr (s : State) : (s.begin).gpr = s.gpr := rfl
@[simp] theorem begin_r15 (s : State) : (s.begin).r15 = s.r15 := rfl
@[simp] theorem begin_pcWrite (s : State) : (s.begin).pcWrite = none := rfl
@[simp] theorem begin_cpsr (s : State) : (s.begin).cpsr = s.cpsr := rfl
@[simp] theorem begin_spsrFiq (s : State) : (s.begin).spsrFiq = s.spsrFiq := rfl
@[simp] theorem begin_spsrIrq (s : State) : (s.begin).spsrIrq = s.spsrIrq := rfl
@[simp] theorem begin_spsrSvc (s : State) : (s.begin).spsrSvc = s.spsrSvc := rfl
@[simp] theorem begin_spsrAbt (s : State) : (s.begin).spsrAbt = s.spsrAbt := rfl
@[simp] theorem begin_spsrUnd (s : State) : (s.begin).spsrUnd = s.spsrUnd := rfl
@[simp] theorem begin_pipeE (s : State) : (s.begin).pipeE = s.pipeE := rfl
@[simp] theorem begin_pipeD (s : State) : (s.begin).pipeD = s.pipeD := rfl
@[simp] theorem begin_pipeF (s : State) : (s.begin).pipeF = s.pipeF := rfl
@[simp] theorem begin_pipeValid (s : State) : (s.begin).pipeValid = s.pipeValid := rfl
@[simp] theorem begin_halted (s : State) : (s.begin).halted = s.halted := rfl
@[simp] theorem begin_ie (s : State) : (s.begin).ie = s.ie := rfl
@[simp] theorem begin_iflag (s : State) : (s.begin).iflag = s.iflag := rfl
@[simp] theorem begin_ime (s : State) : (s.begin).ime = s.ime := rfl
@[simp] theorem begin_dma (s : State) : (s.begin).dma = s.dma := rfl
@[simp] theorem begin_vblankPulse (s : State) : (s.begin).vblankPulse = s.vblankPulse := rfl
@[simp] theorem begin_hblankPulse (s : State) : (s.begin).hblankPulse = s.hblankPulse := rfl
@[simp] theorem begin_timers (s : State) : (s.begin).timers = s.timers := rfl
@[simp] theorem begin_lcd (s : State) : (s.begin).lcd = s.lcd := rfl
@[simp] theorem begin_keycnt (s : State) : (s.begin).keycnt = s.keycnt := rfl
@[simp] theorem begin_keyState (s : State) : (s.begin).keyState = s.keyState := rfl
@[simp] theorem begin_keyInput (s : State) : (s.begin).keyInput = s.keyInput := rfl
@[simp] theorem begin_mem (s : State) : (s.begin).mem = s.mem := rfl
@[simp] theorem begin_save (s : State) : (s.begin).save = s.save := rfl
@[simp] theorem begin_params (s : State) : (s.begin).params = s.params := rfl
@[simp] theorem begin_diags (s : State) : (s.begin).diags = s.diags := rfl
@[simp] theorem begin_pixels (s : State) : (s.begin).pixels = s.pixels := rfl

@[simp] theorem branchTo_gpr (s : State) (v : Word) : (s.branchTo v).gpr = s.gpr := rfl
@[simp] theorem branchTo_r15 (s : State) (v : Word) : (s.branchTo v).r15 = s.r15 := rfl
@[simp] theorem branchTo_pcWrite (s : State) (v : Word) : (s.branchTo v).pcWrite = some v := rfl
@[simp] theorem branchTo_cpsr (s : State) (v : Word) : (s.branchTo v).cpsr = s.cpsr := rfl
@[simp] theorem branchTo_spsrFiq (s : State) (v : Word) : (s.branchTo v).spsrFiq = s.spsrFiq := rfl
@[simp] theorem branchTo_spsrIrq (s : State) (v : Word) : (s.branchTo v).spsrIrq = s.spsrIrq := rfl
@[simp] theorem branchTo_spsrSvc (s : State) (v : Word) : (s.branchTo v).spsrSvc = s.spsrSvc := rfl
@[simp] theorem branchTo_spsrAbt (s : State) (v : Word) : (s.branchTo v).spsrAbt = s.spsrAbt := rfl
@[simp] theorem branchTo_spsrUnd (s : State) (v : Word) : (s.branchTo v).spsrUnd = s.spsrUnd := rfl
@[simp] theorem branchTo_pipeE (s : State) (v : Word) : (s.branchTo v).pipeE = s.pipeE := rfl
@[simp] theorem branchTo_pipeD (s : State) (v : Word) : (s.branchTo v).pipeD = s.pipeD := rfl
@[simp] theorem branchTo_pipeF (s : State) (v : Word) : (s.branchTo v).pipeF = s.pipeF := rfl
@[simp] theorem branchTo_pipeValid (s : State) (v : Word) : (s.branchTo v).pipeValid = s.pipeValid := rfl
@[simp] theorem branchTo_halted (s : State) (v : Word) : (s.branchTo v).halted = s.halted := rfl
@[simp] theorem branchTo_ie (s : State) (v : Word) : (s.branchTo v).ie = s.ie := rfl
@[simp] theorem branchTo_iflag (s : State) (v : Word) : (s.branchTo v).iflag = s.iflag := rfl
@[simp] theorem branchTo_ime (s : State) (v : Word) : (s.branchTo v).ime = s.ime := rfl
@[simp] theorem branchTo_dma (s : State) (v : Word) : (s.branchTo v).dma = s.dma := rfl
@[simp] theorem branchTo_vblankPulse (s : State) (v : Word) : (s.branchTo v).vblankPulse = s.vblankPulse := rfl
@[simp] theorem branchTo_hblankPulse (s : State) (v : Word) : (s.branchTo v).hblankPulse = s.hblankPulse := rfl
@[simp] theorem branchTo_timers (s : State) (v : Word) : (s.branchTo v).timers = s.timers := rfl
@[simp] theorem branchTo_lcd (s : State) (v : Word) : (s.branchTo v).lcd = s.lcd := rfl
@[simp] theorem branchTo_keycnt (s : State) (v : Word) : (s.branchTo v).keycnt = s.keycnt := rfl
@[simp] theorem branchTo_keyState (s : State) (v : Word) : (s.branchTo v).keyState = s.keyState := rfl
@[simp] theorem branchTo_keyInput (s : State) (v : Word) : (s.branchTo v).keyInput = s.keyInput := rfl
@[simp] theorem branchTo_mem (s : State) (v : Word) : (s.branchTo v).mem = s.mem := rfl
@[simp] theorem branchTo_save (s : State) (v : Word) : (s.branchTo v).save = s.save := rfl
@[simp] theorem branchTo_params (s : State) (v : Word) : (s.branchTo v).params = s.params := rfl
@[simp] theorem branchTo_diags (s : State) (v : Word) : (s.branchTo v).diags = s.diags := rfl
@[simp] theorem branchTo_pixels (s : State) (v : Word) : (s.branchTo v).pixels = s.pixels := rfl

@[simp] theorem setCpsr_gpr (s : State) (p : Psr) : (s.setCpsr p).gpr = s.gpr := rfl
@[simp] theorem setCpsr_r15 (s : State) (p : Psr) : (s.setCpsr p).r15 = s.r15 := rfl
@[simp] theorem setCpsr_pcWrite (s : State) (p : Psr) : (s.setCpsr p).pcWrite = s.pcWrite := rfl
@[simp] theorem setCpsr_cpsr (s : State) (p : Psr) : (s.setCpsr p).cpsr = p := rfl
@[simp] theorem setCpsr_spsrFiq (s : State) (p : Psr) : (s.setCpsr p).spsrFiq = s.spsrFiq := rfl
@[simp] theorem setCpsr_spsrIrq (s : State) (p : Psr) : (s.setCpsr p).spsrIrq = s.spsrIrq := rfl
@[simp] theorem setCpsr_spsrSvc (s : State) (p : Psr) : (s.setCpsr p).spsrSvc = s.spsrSvc := rfl
@[simp] theorem setCpsr_spsrAbt (s : State) (p : Psr) : (s.setCpsr p).spsrAbt = s.spsrAbt := rfl
@[simp] theorem setCpsr_spsrUnd (s : State) (p : Psr) : (s.setCpsr p).spsrUnd = s.spsrUnd := rfl
@[simp] theorem setCpsr_pipeE (s : State) (p : Psr) : (s.setCpsr p).pipeE = s.pipeE := rfl
@[simp] theorem setCpsr_pipeD (s : State) (p : Psr) : (s.setCpsr p).pipeD = s.pipeD := rfl
@[simp] theorem setCpsr_pipeF (s : State) (p : Psr) : (s.setCpsr p).pipeF = s.pipeF := rfl
@[simp] theorem setCpsr_pipeValid (s : State) (p : Psr) : (s.setCpsr p).pipeValid = s.pipeValid := rfl
@[simp] theorem setCpsr_halted (s : State) (p : Psr) : (s.setCpsr p).halted = s.halted := rfl
@[simp] theorem setCpsr_ie (s : State) (p : Psr) : (s.setCpsr p).ie = s.ie := rfl
@[simp] theorem setCpsr_iflag (s : State) (p : Psr) : (s.setCpsr p).iflag = s.iflag := rfl
@[simp] theorem setCpsr_ime (s : State) (p : Psr) : (s.setCpsr p).ime = s.ime := rfl
@[simp] theorem setCpsr_dma (s : State) (p : Psr) : (s.setCpsr p).dma = s.dma := rfl
@[simp] theorem setCpsr_vblankPulse (s : State) (p : Psr) : (s.setCpsr p).vblankPulse = s.vblankPulse := rfl
@[simp] theorem setCpsr_hblankPulse (s : State) (p : Psr) : (s.setCpsr p).hblankPulse = s.hblankPulse := rfl
@[simp] theorem setCpsr_timers (s : State) (p : Psr) : (s.setCpsr p).timers = s.timers := rfl
@[simp] theorem setCpsr_lcd (s : State) (p : Psr) : (s.setCpsr p).lcd = s.lcd := rfl
@[simp] theorem setCpsr_keycnt (s : State) (p : Psr) : (s.setCpsr p).keycnt = s.keycnt := rfl
@[simp] theorem setCpsr_keyState (s : State) (p : Psr) : (s.setCpsr p).keyState = s.keyState := rfl
@[simp] theorem setCpsr_keyInput (s : State) (p : Psr) : (s.setCpsr p).keyInput = s.keyInput := rfl
@[simp] theorem setCpsr_mem (s : State) (p : Psr) : (s.setCpsr p).mem = s.mem := rfl
@[simp] theorem setCpsr_save (s : State) (p : Psr) : (s.setCpsr p).save = s.save := rfl
@[simp] theorem setCpsr_params (s : State) (p : Psr) : (s.setCpsr p).params = s.params := rfl
@[simp] theorem setCpsr_diags (s : State) (p : Psr) : (s.setCpsr p).diags = s.diags := rfl
@[simp] theorem setCpsr_pixels (s : State) (p : Psr) : (s.setCpsr p).pixels = s.pixels := rfl

@[simp] theorem updateFlags_gpr (s : State) (g : Psr → Psr) : (s.updateFlags g).gpr = s.gpr := rfl
@[simp] theorem updateFlags_r15 (s : State) (g : Psr → Psr) : (s.updateFlags g).r15 = s.r15 := rfl
@[simp] theorem updateFlags_pcWrite (s : State) (g : Psr → Psr) : (s.updateFlags g).pcWrite = s.pcWrite := rfl
@[simp] theorem updateFlags_cpsr (s : State) (g : Psr → Psr) : (s.updateFlags g).cpsr = g s.cpsr := rfl
@[simp] theorem updateFlags_spsrFiq (s : State) (g : Psr → Psr) : (s.updateFlags g).spsrFiq = s.spsrFiq := rfl
@[simp] theorem updateFlags_spsrIrq (s : State) (g : Psr → Psr) : (s.updateFlags g).spsrIrq = s.spsrIrq := rfl
@[simp] theorem updateFlags_spsrSvc (s : State) (g : Psr → Psr) : (s.updateFlags g).spsrSvc = s.spsrSvc := rfl
@[simp] theorem updateFlags_spsrAbt (s : State) (g : Psr → Psr) : (s.updateFlags g).spsrAbt = s.spsrAbt := rfl
@[simp] theorem updateFlags_spsrUnd (s : State) (g : Psr → Psr) : (s.updateFlags g).spsrUnd = s.spsrUnd := rfl
@[simp] theorem updateFlags_pipeE (s : State) (g : Psr → Psr) : (s.updateFlags g).pipeE = s.pipeE := rfl
@[simp] theorem updateFlags_pipeD (s : State) (g : Psr → Psr) : (s.updateFlags g).pipeD = s.pipeD := rfl
@[simp] theorem updateFlags_pipeF (s : State) (g : Psr → Psr) : (s.updateFlags g).pipeF = s.pipeF := rfl
@[simp] theorem updateFlags_pipeValid (s : State) (g : Psr → Psr) : (s.updateFlags g).pipeValid = s.pipeValid := rfl
@[simp] theorem updateFlags_halted (s : State) (g : Psr → Psr) : (s.updateFlags g).halted = s.halted := rfl
@[simp] theorem updateFlags_ie (s : State) (g : Psr → Psr) : (s.updateFlags g).ie = s.ie := rfl
@[simp] theorem updateFlags_iflag (s : State) (g : Psr → Psr) : (s.updateFlags g).iflag = s.iflag := rfl
@[simp] theorem updateFlags_ime (s : State) (g : Psr → Psr) : (s.updateFlags g).ime = s.ime := rfl
@[simp] theorem updateFlags_dma (s : State) (g : Psr → Psr) : (s.updateFlags g).dma = s.dma := rfl
@[simp] theorem updateFlags_vblankPulse (s : State) (g : Psr → Psr) : (s.updateFlags g).vblankPulse = s.vblankPulse := rfl
@[simp] theorem updateFlags_hblankPulse (s : State) (g : Psr → Psr) : (s.updateFlags g).hblankPulse = s.hblankPulse := rfl
@[simp] theorem updateFlags_timers (s : State) (g : Psr → Psr) : (s.updateFlags g).timers = s.timers := rfl
@[simp] theorem updateFlags_lcd (s : State) (g : Psr → Psr) : (s.updateFlags g).lcd = s.lcd := rfl
@[simp] theorem updateFlags_keycnt (s : State) (g : Psr → Psr) : (s.updateFlags g).keycnt = s.keycnt := rfl
@[simp] theorem updateFlags_keyState (s : State) (g : Psr → Psr) : (s.updateFlags g).keyState = s.keyState := rfl
@[simp] theorem updateFlags_keyInput (s : State) (g : Psr → Psr) : (s.updateFlags g).keyInput = s.keyInput := rfl
@[simp] theorem updateFlags_mem (s : State) (g : Psr → Psr) : (s.updateFlags g).mem = s.mem := rfl
@[simp] theorem updateFlags_save (s : State) (g : Psr → Psr) : (s.updateFlags g).save = s.save := rfl
@[simp] theorem updateFlags_params (s : State) (g : Psr → Psr) : (s.updateFlags g).params = s.params := rfl
@[simp] theorem updateFlags_diags (s : State) (g : Psr → Psr) : (s.updateFlags g).diags = s.diags := rfl
@[simp] theorem updateFlags_pixels (s : State) (g : Psr → Psr) : (s.updateFlags g).pixels = s.pixels := rfl

@[simp] theorem emit_gpr (s : State) (k : DiagKind) (i : Word) : (s.emit k i).gpr = s.gpr := rfl
@[simp] theorem emit_r15 (s : State) (k : DiagKind) (i : Word) : (s.emit k i).r15 = s.r15 := rfl
@[simp] theorem emit_pcWrite (s : State) (k : DiagKind) (i : Word) : (s.emit k i).pcWrite = s.pcWrite := rfl
@[simp] theorem emit_cpsr (s : State) (k : DiagKind) (i : Word) : (s.emit k i).cpsr = s.cpsr := rfl
@[simp] theorem emit_spsrFiq (s : State) (k : DiagKind) (i : Word) : (s.emit k i).spsrFiq = s.spsrFiq := rfl
@[simp] theorem emit_spsrIrq (s : State) (k : DiagKind) (i : Word) : (s.emit k i).spsrIrq = s.spsrIrq := rfl
@[simp] theorem emit_spsrSvc (s : State) (k : DiagKind) (i : Word) : (s.emit k i).spsrSvc = s.spsrSvc := rfl
@[simp] theorem emit_spsrAbt (s : State) (k : DiagKind) (i : Word) : (s.emit k i).spsrAbt = s.spsrAbt := rfl
@[simp] theorem emit_spsrUnd (s : State) (k : DiagKind) (i : Word) : (s.emit k i).spsrUnd = s.spsrUnd := rfl
@[simp] theorem emit_pipeE (s : State) (k : DiagKind) (i : Word) : (s.emit k i).pipeE = s.pipeE := rfl
@[simp] theorem emit_pipeD (s : State) (k : DiagKind) (i : Word) : (s.emit k i).pipeD = s.pipeD := rfl
@[simp] theorem emit_pipeF (s : State) (k : DiagKind) (i : Word) : (s.emit k i).pipeF = s.pipeF := rfl
@[simp] theorem emit_pipeValid (s : State) (k : DiagKind) (i : Word) : (s.emit k i).pipeValid = s.pipeValid := rfl
@[simp] theorem emit_halted (s : State) (k : DiagKind) (i : Word) : (s.emit k i).halted = s.halted := rfl
@[simp] theorem emit_ie (s : State) (k : DiagKind) (i : Word) : (s.emit k i).ie = s.ie := rfl
@[simp] theorem emit_iflag (s : State) (k : DiagKind) (i : Word) : (s.emit k i).iflag = s.iflag := rfl
@[simp] theorem emit_ime (s : State) (k : DiagKind) (i : Word) : (s.emit k i).ime = s.ime := rfl
@[simp] theorem emit_dma (s : State) (k : DiagKind) (i : Word) : (s.emit k i).dma = s.dma := rfl
@[simp] theorem emit_vblankPulse (s : State) (k : DiagKind) (i : Word) : (s.emit k i).vblankPulse = s.vblankPulse := rfl
@[simp] theorem emit_hblankPulse (s : State) (k : DiagKind) (i : Word) : (s.emit k i).hblankPulse = s.hblankPulse := rfl
@[simp] theorem emit_timers (s : State) (k : DiagKind) (i : Word) : (s.emit k i).timers = s.timers := rfl
@[simp] theorem emit_lcd (s : State) (k : DiagKind) (i : Word) : (s.emit k i).lcd = s.lcd := rfl
@[simp] theorem emit_keycnt (s : State) (k : DiagKind) (i : Word) : (s.emit k i).keycnt = s.keycnt := rfl
@[simp] theorem emit_keyState (s : State) (k : DiagKind) (i : Word) : (s.emit k i).keyState = s.keyState := rfl
@[simp] theorem emit_keyInput (s : State) (k : DiagKind) (i : Word) : (s.emit k i).keyInput = s.keyInput := rfl
@[simp] theorem emit_mem (s : State) (k : DiagKind) (i : Word) : (s.emit k i).mem = s.mem := rfl
@[simp] theorem emit_save (s : State) (k : DiagKind) (i : Word) : (s.emit k i).save = s.save := rfl
@[simp] theorem emit_params (s : State) (k : DiagKind) (i : Word) : (s.emit k i).params = s.params := rfl
@[simp] theorem emit_diags (s : State) (k : DiagKind) (i : Word) : (s.emit k i).diags = ⟨k, i⟩ :: s.diags := rfl
@[simp] theorem emit_pixels (s : State) (k : DiagKind) (i : Word) : (s.emit k i).pixels = s.pixels := rfl

@[simp] theorem emitHere_gpr (s : State) (k : DiagKind) : (s.emitHere k).gpr = s.gpr := rfl
@[simp] theorem emitHere_r15 (s : State) (k : DiagKind) : (s.emitHere k).r15 = s.r15 := rfl
@[simp] theorem emitHere_pcWrite (s : State) (k : DiagKind) : (s.emitHere k).pcWrite = s.pcWrite := rfl
@[simp] theorem emitHere_cpsr (s : State) (k : DiagKind) : (s.emitHere k).cpsr = s.cpsr := rfl
@[simp] theorem emitHere_spsrFiq (s : State) (k : DiagKind) : (s.emitHere k).spsrFiq = s.spsrFiq := rfl
@[simp] theorem emitHere_spsrIrq (s : State) (k : DiagKind) : (s.emitHere k).spsrIrq = s.spsrIrq := rfl
@[simp] theorem emitHere_spsrSvc (s : State) (k : DiagKind) : (s.emitHere k).spsrSvc = s.spsrSvc := rfl
@[simp] theorem emitHere_spsrAbt (s : State) (k : DiagKind) : (s.emitHere k).spsrAbt = s.spsrAbt := rfl
@[simp] theorem emitHere_spsrUnd (s : State) (k : DiagKind) : (s.emitHere k).spsrUnd = s.spsrUnd := rfl
@[simp] theorem emitHere_pipeE (s : State) (k : DiagKind) : (s.emitHere k).pipeE = s.pipeE := rfl
@[simp] theorem emitHere_pipeD (s : State) (k : DiagKind) : (s.emitHere k).pipeD = s.pipeD := rfl
@[simp] theorem emitHere_pipeF (s : State) (k : DiagKind) : (s.emitHere k).pipeF = s.pipeF := rfl
@[simp] theorem emitHere_pipeValid (s : State) (k : DiagKind) : (s.emitHere k).pipeValid = s.pipeValid := rfl
@[simp] theorem emitHere_halted (s : State) (k : DiagKind) : (s.emitHere k).halted = s.halted := rfl
@[simp] theorem emitHere_ie (s : State) (k : DiagKind) : (s.emitHere k).ie = s.ie := rfl
@[simp] theorem emitHere_iflag (s : State) (k : DiagKind) : (s.emitHere k).iflag = s.iflag := rfl
@[simp] theorem emitHere_ime (s : State) (k : DiagKind) : (s.emitHere k).ime = s.ime := rfl
@[simp] theorem emitHere_dma (s : State) (k : DiagKind) : (s.emitHere k).dma = s.dma := rfl
@[simp] theorem emitHere_vblankPulse (s : State) (k : DiagKind) : (s.emitHere k).vblankPulse = s.vblankPulse := rfl
@[simp] theorem emitHere_hblankPulse (s : State) (k : DiagKind) : (s.emitHere k).hblankPulse = s.hblankPulse := rfl
@[simp] theorem emitHere_timers (s : State) (k : DiagKind) : (s.emitHere k).timers = s.timers := rfl
@[simp] theorem emitHere_lcd (s : State) (k : DiagKind) : (s.emitHere k).lcd = s.lcd := rfl
@[simp] theorem emitHere_keycnt (s : State) (k : DiagKind) : (s.emitHere k).keycnt = s.keycnt := rfl
@[simp] theorem emitHere_keyState (s : State) (k : DiagKind) : (s.emitHere k).keyState = s.keyState := rfl
@[simp] theorem emitHere_keyInput (s : State) (k : DiagKind) : (s.emitHere k).keyInput = s.keyInput := rfl
@[simp] theorem emitHere_mem (s : State) (k : DiagKind) : (s.emitHere k).mem = s.mem := rfl
@[simp] theorem emitHere_save (s : State) (k : DiagKind) : (s.emitHere k).save = s.save := rfl
@[simp] theorem emitHere_params (s : State) (k : DiagKind) : (s.emitHere k).params = s.params := rfl
@[simp] theorem emitHere_diags (s : State) (k : DiagKind) : (s.emitHere k).diags = ⟨k, s.pipeE⟩ :: s.diags := rfl
@[simp] theorem emitHere_pixels (s : State) (k : DiagKind) : (s.emitHere k).pixels = s.pixels := rfl

@[simp] theorem applyPc_gpr (s : State) (v : Word) : (s.applyPc v).gpr = s.gpr := rfl
@[simp] theorem applyPc_r15 (s : State) (v : Word) : (s.applyPc v).r15 = alignPc s.cpsr.t v := rfl
@[simp] theorem applyPc_pcWrite (s : State) (v : Word) : (s.applyPc v).pcWrite = none := rfl
@[simp] theorem applyPc_cpsr (s : State) (v : Word) : (s.applyPc v).cpsr = s.cpsr := rfl
@[simp] theorem applyPc_spsrFiq (s : State) (v : Word) : (s.applyPc v).spsrFiq = s.spsrFiq := rfl
@[simp] theorem applyPc_spsrIrq (s : State) (v : Word) : (s.applyPc v).spsrIrq = s.spsrIrq := rfl
@[simp] theorem applyPc_spsrSvc (s : State) (v : Word) : (s.applyPc v).spsrSvc = s.spsrSvc := rfl
@[simp] theorem applyPc_spsrAbt (s : State) (v : Word) : (s.applyPc v).spsrAbt = s.spsrAbt := rfl
@[simp] theorem applyPc_spsrUnd (s : State) (v : Word) : (s.applyPc v).spsrUnd = s.spsrUnd := rfl
@[simp] theorem applyPc_pipeE (s : State) (v : Word) : (s.applyPc v).pipeE = s.pipeE := rfl
@[simp] theorem applyPc_pipeD (s : State) (v : Word) : (s.applyPc v).pipeD = s.pipeD := rfl
@[simp] theorem applyPc_pipeF (s : State) (v : Word) : (s.applyPc v).pipeF = s.pipeF := rfl
@[simp] theorem applyPc_pipeValid (s : State) (v : Word) : (s.applyPc v).pipeValid = false := rfl
@[simp] theorem applyPc_halted (s : State) (v : Word) : (s.applyPc v).halted = s.halted := rfl
@[simp] theorem applyPc_ie (s : State) (v : Word) : (s.applyPc v).ie = s.ie := rfl
@[simp] theorem applyPc_iflag (s : State) (v : Word) : (s.applyPc v).iflag = s.iflag := rfl
@[simp] theorem applyPc_ime (s : State) (v : Word) : (s.applyPc v).ime = s.ime := rfl
@[simp] theorem applyPc_dma (s : State) (v : Word) : (s.applyPc v).dma = s.dma := rfl
@[simp] theorem applyPc_vblankPulse (s : State) (v : Word) : (s.applyPc v).vblankPulse = s.vblankPulse := rfl
@[simp] theorem applyPc_hblankPulse (s : State) (v : Word) : (s.applyPc v).hblankPulse = s.hblankPulse := rfl
@[simp] theorem applyPc_timers (s : State) (v : Word) : (s.applyPc v).timers = s.timers := rfl
@[simp] theorem applyPc_lcd (s : State) (v : Word) : (s.applyPc v).lcd = s.lcd := rfl
@[simp] theorem applyPc_keycnt (s : State) (v : Word) : (s.applyPc v).keycnt = s.keycnt := rfl
@[simp] theorem applyPc_keyState (s : State) (v : Word) : (s.applyPc v).keyState = s.keyState := rfl
@[simp] theorem applyPc_keyInput (s : State) (v : Word) : (s.applyPc v).keyInput = s.keyInput := rfl
@[simp] theorem applyPc_mem (s : State) (v : Word) : (s.applyPc v).mem = s.mem := rfl
@[simp] theorem applyPc_save (s : State) (v : Word) : (s.applyPc v).save = s.save := rfl
@[simp] theorem applyPc_params (s : State) (v : Word) : (s.applyPc v).params = s.params := rfl
@[simp] theorem applyPc_diags (s : State) (v : Word) : (s.applyPc v).diags = s.diags := rfl
@[simp] theorem applyPc_pixels (s : State) (v : Word) : (s.applyPc v).pixels = s.pixels := rfl

@[simp] theorem noteCond_gpr (s : State) (c : Cond) : (s.noteCond c).gpr = s.gpr := by unfold noteCond; split <;> rfl
@[simp] theorem noteCond_r15 (s : State) (c : Cond) : (s.noteCond c).r15 = s.r15 := by unfold noteCond; split <;> rfl
@[simp] theorem noteCond_pcWrite (s : State) (c : Cond) : (s.noteCond c).pcWrite = s.pcWrite := by unfold noteCond; split <;> rfl
@[simp] theorem noteCond_cpsr (s : State) (c : Cond) : (s.noteCond c).cpsr = s.cpsr := by unfold noteCond; split <;> rfl
@[simp] theorem noteCond_spsrFiq (s : State) (c : Cond) : (s.noteCond c).spsrFiq = s.spsrFiq := by unfold noteCond; split <;> rfl
@[simp] theorem noteCond_spsrIrq (s : State) (c : Cond) : (s.noteCond c).spsrIrq = s.spsrIrq := by unfold noteCond; split <;> rfl
@[simp] theorem noteCond_spsrSvc (s : State) (c : Cond) : (s.noteCond c).spsrSvc = s.spsrSvc := by unfold noteCond; split <;> rfl
@[simp] theorem noteCond_spsrAbt (s : State) (c : Cond) : (s.noteCond c).spsrAbt = s.spsrAbt := by unfold noteCond; split <;> rfl
@[simp] theorem noteCond_spsrUnd (s : State) (c : Cond) : (s.noteCond c).spsrUnd = s.spsrUnd := by unfold noteCond; split <;> rfl
@[simp] theorem noteCond_pipeE (s : State) (c : Cond) : (s.noteCond c).pipeE = s.pipeE := by unfold noteCond; split <;> rfl
@[simp] theorem noteCond_pipeD (s : State) (c : Cond) : (s.noteCond c).pipeD = s.pipeD := by unfold noteCond; split <;> rfl
@[simp] theorem noteCond_pipeF (s : State) (c : Cond) : (s.noteCond c).pipeF = s.pipeF := by unfold noteCond; split <;> rfl
@[simp] theorem noteCond_pipeValid (s : State) (c : Cond) : (s.noteCond c).pipeValid = s.pipeValid := by unfold noteCond; split <;> rfl
@[simp] theorem noteCond_halted (s : State) (c : Cond) : (s.noteCond c).halted = s.halted := by unfold noteCond; split <;> rfl
@[simp] theorem noteCond_ie (s : State) (c : Cond) : (s.noteCond c).ie = s.ie := by unfold noteCond; split <;> rfl
@[simp] theorem noteCond_iflag (s : State) (c : Cond) : (s.noteCond c).iflag = s.iflag := by unfold noteCond; split <;> rfl
@[simp] theorem noteCond_ime (s : State) (c : Cond) : (s.noteCond c).ime = s.ime := by unfold noteCond; split <;> rfl
@[simp] theorem noteCond_dma (s : State) (c : Cond) : (s.noteCond c).dma = s.dma := by unfold noteCond; split <;> rfl
@[simp] theorem noteCond_vblankPulse (s : State) (c : Cond) : (s.noteCond c).vblankPulse = s.vblankPulse := by unfold noteCond; split <;> rfl
@[simp] theorem noteCond_hblankPulse (s : State) (c : Cond) : (s.noteCond c).hblankPulse = s.hblankPulse := by unfold noteCond; split <;> rfl
@[simp] theorem noteCond_timers (s : State) (c : Cond) : (s.noteCond c).timers = s.timers := by unfold noteCond; split <;> rfl
@[simp] theorem noteCond_lcd (s : State) (c : Cond) : (s.noteCond c).lcd = s.lcd := by unfold noteCond; split <;> rfl
@[simp] theorem noteCond_keycnt (s : State) (c : Cond) : (s.noteCond c).keycnt = s.keycnt := by unfold noteCond; split <;> rfl
@[simp] theorem noteCond_keyState (s : State) (c : Cond) : (s.noteCond c).keyState = s.keyState := by unfold noteCond; split <;> rfl
@[simp] theorem noteCond_keyInput (s : State) (c : Cond) : (s.noteCond c).keyInput = s.keyInput := by unfold noteCond; split <;> rfl
@[simp] theorem noteCond_mem (s : State) (c : Cond) : (s.noteCond c).mem = s.mem := by unfold noteCond; split <;> rfl
@[simp] theorem noteCond_save (s : State) (c : Cond) : (s.noteCond c).save = s.save := by unfold noteCond; split <;> rfl
@[simp] theorem noteCond_params (s : State) (c : Cond) : (s.noteCond c).params = s.params := by unfold noteCond; split <;> rfl
@[simp] theorem noteCond_pixels (s : State) (c : Cond) : (s.noteCond c).pixels = s.pixels := by unfold noteCond; split <;> rfl

@[simp] theorem noteIllegalMode_gpr (s : State) : (s.noteIllegalMode).gpr = s.gpr := by unfold noteIllegalMode; split <;> rfl
@[simp] theorem noteIllegalMode_r15 (s : State) : (s.noteIllegalMode).r15 = s.r15 := by unfold noteIllegalMode; split <;> rfl
@[simp] theorem noteIllegalMode_pcWrite (s : State) : (s.noteIllegalMode).pcWrite = s.pcWrite := by unfold noteIllegalMode; split <;> rfl
@[simp] theorem noteIllegalMode_cpsr (s : State) : (s.noteIllegalMode).cpsr = s.cpsr := by unfold noteIllegalMode; split <;> rfl
@[simp] theorem noteIllegalMode_spsrFiq (s : State) : (s.noteIllegalMode).spsrFiq = s.spsrFiq := by unfold noteIllegalMode; split <;> rfl
@[simp] theorem noteIllegalMode_spsrIrq (s : State) : (s.noteIllegalMode).spsrIrq = s.spsrIrq := by unfold noteIllegalMode; split <;> rfl
@[simp] theorem noteIllegalMode_spsrSvc (s : State) : (s.noteIllegalMode).spsrSvc = s.spsrSvc := by unfold noteIllegalMode; split <;> rfl
@[simp] theorem noteIllegalMode_spsrAbt (s : State) : (s.noteIllegalMode).spsrAbt = s.spsrAbt := by unfold noteIllegalMode; split <;> rfl
@[simp] theorem noteIllegalMode_spsrUnd (s : State) : (s.noteIllegalMode).spsrUnd = s.spsrUnd := by unfold noteIllegalMode; split <;> rfl
@[simp] theorem noteIllegalMode_pipeE (s : State) : (s.noteIllegalMode).pipeE = s.pipeE := by unfold noteIllegalMode; split <;> rfl
@[simp] theorem noteIllegalMode_pipeD (s : State) : (s.noteIllegalMode).pipeD = s.pipeD := by unfold noteIllegalMode; split <;> rfl
@[simp] theorem noteIllegalMode_pipeF (s : State) : (s.noteIllegalMode).pipeF = s.pipeF := by unfold noteIllegalMode; split <;> rfl
@[simp] theorem noteIllegalMode_pipeValid (s : State) : (s.noteIllegalMode).pipeValid = s.pipeValid := by unfold noteIllegalMode; split <;> rfl
@[simp] theorem noteIllegalMode_halted (s : State) : (s.noteIllegalMode).halted = s.halted := by unfold noteIllegalMode; split <;> rfl
@[simp] theorem noteIllegalMode_ie (s : State) : (s.noteIllegalMode).ie = s.ie := by unfold noteIllegalMode; split <;> rfl
@[simp] theorem noteIllegalMode_iflag (s : State) : (s.noteIllegalMode).iflag = s.iflag := by unfold noteIllegalMode; split <;> rfl
@[simp] theorem noteIllegalMode_ime (s : State) : (s.noteIllegalMode).ime = s.ime := by unfold noteIllegalMode; split <;> rfl
@[simp] theorem noteIllegalMode_dma (s : State) : (s.noteIllegalMode).dma = s.dma := by unfold noteIllegalMode; split <;> rfl
@[simp] theorem noteIllegalMode_vblankPulse (s : State) : (s.noteIllegalMode).vblankPulse = s.vblankPulse := by unfold noteIllegalMode; split <;> rfl
@[simp] theorem noteIllegalMode_hblankPulse (s : State) : (s.noteIllegalMode).hblankPulse = s.hblankPulse := by unfold noteIllegalMode; split <;> rfl
@[simp] theorem noteIllegalMode_timers (s : State) : (s.noteIllegalMode).timers = s.timers := by unfold noteIllegalMode; split <;> rfl
@[simp] theorem noteIllegalMode_lcd (s : State) : (s.noteIllegalMode).lcd = s.lcd := by unfold noteIllegalMode; split <;> rfl
@[simp] theorem noteIllegalMode_keycnt (s : State) : (s.noteIllegalMode).keycnt = s.keycnt := by unfold noteIllegalMode; split <;> rfl
@[simp] theorem noteIllegalMode_keyState (s : State) : (s.noteIllegalMode).keyState = s.keyState := by unfold noteIllegalMode; split <;> rfl
@[simp] theorem noteIllegalMode_keyInput (s : State) : (s.noteIllegalMode).keyInput = s.keyInput := by unfold noteIllegalMode; split <;> rfl
@[simp] theorem noteIllegalMode_mem (s : State) : (s.noteIllegalMode).mem = s.mem := by unfold noteIllegalMode; split <;> rfl
@[simp] theorem noteIllegalMode_save (s : State) : (s.noteIllegalMode).save = s.save := by unfold noteIllegalMode; split <;> rfl
@[simp] theorem noteIllegalMode_params (s : State) : (s.noteIllegalMode).params = s.params := by unfold noteIllegalMode; split <;> rfl
@[simp] theorem noteIllegalMode_pixels (s : State) : (s.noteIllegalMode).pixels = s.pixels := by unfold noteIllegalMode; split <;> rfl

@[simp] theorem writeBank_r15 (s : State) (b : Bank) (r : Reg) (v : Word) : (s.writeBank b r v).r15 = s.r15 := by unfold writeBank; split <;> rfl
@[simp] theorem writeBank_cpsr (s : State) (b : Bank) (r : Reg) (v : Word) : (s.writeBank b r v).cpsr = s.cpsr := by unfold writeBank; split <;> rfl
@[simp] theorem writeBank_spsrFiq (s : State) (b : Bank) (r : Reg) (v : Word) : (s.writeBank b r v).spsrFiq = s.spsrFiq := by unfold writeBank; split <;> rfl
@[simp] theorem writeBank_spsrIrq (s : State) (b : Bank) (r : Reg) (v : Word) : (s.writeBank b r v).spsrIrq = s.spsrIrq := by unfold writeBank; split <;> rfl
@[simp] theorem writeBank_spsrSvc (s : State) (b : Bank) (r : Reg) (v : Word) : (s.writeBank b r v).spsrSvc = s.spsrSvc := by unfold writeBank; split <;> rfl
@[simp] theorem writeBank_spsrAbt (s : State) (b : Bank) (r : Reg) (v : Word) : (s.writeBank b r v).spsrAbt = s.spsrAbt := by unfold writeBank; split <;> rfl
@[simp] theorem writeBank_spsrUnd (s : State) (b : Bank) (r : Reg) (v : Word) : (s.writeBank b r v).spsrUnd = s.spsrUnd := by unfold writeBank; split <;> rfl
@[simp] theorem writeBank_pipeE (s : State) (b : Bank) (r : Reg) (v : Word) : (s.writeBank b r v).pipeE = s.pipeE := by unfold writeBank; split <;> rfl
@[simp] theorem writeBank_pipeD (s : State) (b : Bank) (r : Reg) (v : Word) : (s.writeBank b r v).pipeD = s.pipeD := by unfold writeBank; split <;> rfl
@[simp] theorem writeBank_pipeF (s : State) (b : Bank) (r : Reg) (v : Word) : (s.writeBank b r v).pipeF = s.pipeF := by unfold writeBank; split <;> rfl
@[simp] theorem writeBank_pipeValid (s : State) (b : Bank) (r : Reg) (v : Word) : (s.writeBank b r v).pipeValid = s.pipeValid := by unfold writeBank; split <;> rfl
@[simp] theorem writeBank_halted (s : State) (b : Bank) (r : Reg) (v : Word) : (s.writeBank b r v).halted = s.halted := by unfold writeBank; split <;> rfl
@[simp] theorem writeBank_ie (s : State) (b : Bank) (r : Reg) (v : Word) : (s.writeBank b r v).ie = s.ie := by unfold writeBank; split <;> rfl
@[simp] theorem writeBank_iflag (s : State) (b : Bank) (r : Reg) (v : Word) : (s.writeBank b r v).iflag = s.iflag := by unfold writeBank; split <;> rfl
@[simp] theorem writeBank_ime (s : State) (b : Bank) (r : Reg) (v : Word) : (s.writeBank b r v).ime = s.ime := by unfold writeBank; split <;> rfl
@[simp] theorem writeBank_dma (s : State) (b : Bank) (r : Reg) (v : Word) : (s.writeBank b r v).dma = s.dma := by unfold writeBank; split <;> rfl
@[simp] theorem writeBank_vblankPulse (s : State) (b : Bank) (r : Reg) (v : Word) : (s.writeBank b r v).vblankPulse = s.vblankPulse := by unfold writeBank; split <;> rfl
@[simp] theorem writeBank_hblankPulse (s : State) (b : Bank) (r : Reg) (v : Word) : (s.writeBank b r v).hblankPulse = s.hblankPulse := by unfold writeBank; split <;> rfl
@[simp] theorem writeBank_timers (s : State) (b : Bank) (r : Reg) (v : Word) : (s.writeBank b r v).timers = s.timers := by unfold writeBank; split <;> rfl
@[simp] theorem writeBank_lcd (s : State) (b : Bank) (r : Reg) (v : Word) : (s.writeBank b r v).lcd = s.lcd := by unfold writeBank; split <;> rfl
@[simp] theorem writeBank_keycnt (s : State) (b : Bank) (r : Reg) (v : Word) : (s.writeBank b r v).keycnt = s.keycnt := by unfold writeBank; split <;> rfl
@[simp] theorem writeBank_keyState (s : State) (b : Bank) (r : Reg) (v : Word) : (s.writeBank b r v).keyState = s.keyState := by unfold writeBank; split <;> rfl
@[simp] theorem writeBank_keyInput (s : State) (b : Bank) (r : Reg) (v : Word) : (s.writeBank b r v).keyInput = s.keyInput := by unfold writeBank; split <;> rfl
@[simp] theorem writeBank_mem (s : State) (b : Bank) (r : Reg) (v : Word) : (s.writeBank b r v).mem = s.mem := by unfold writeBank; split <;> rfl
@[simp] theorem writeBank_save (s : State) (b : Bank) (r : Reg) (v : Word) : (s.writeBank b r v).save = s.save := by unfold writeBank; split <;> rfl
@[simp] theorem writeBank_params (s : State) (b : Bank) (r : Reg) (v : Word) : (s.writeBank b r v).params = s.params := by unfold writeBank; split <;> rfl
@[simp] theorem writeBank_diags (s : State) (b : Bank) (r : Reg) (v : Word) : (s.writeBank b r v).diags = s.diags := by unfold writeBank; split <;> rfl
@[simp] theorem writeBank_pixels (s : State) (b : Bank) (r : Reg) (v : Word) : (s.writeBank b r v).pixels = s.pixels := by unfold writeBank; split <;> rfl

@[simp] theorem writeReg_r15 (s : State) (r : Reg) (v : Word) : (s.writeReg r v).r15 = s.r15 := by unfold writeReg; simp
@[simp] theorem writeReg_cpsr (s : State) (r : Reg) (v : Word) : (s.writeReg r v).cpsr = s.cpsr := by unfold writeReg; simp
@[simp] theorem writeReg_spsrFiq (s : State) (r : Reg) (v : Word) : (s.writeReg r v).spsrFiq = s.spsrFiq := by unfold writeReg; simp
@[simp] theorem writeReg_spsrIrq (s : State) (r : Reg) (v : Word) : (s.writeReg r v).spsrIrq = s.spsrIrq := by unfold writeReg; simp
@[simp] theorem writeReg_spsrSvc (s : State) (r : Reg) (v : Word) : (s.writeReg r v).spsrSvc = s.spsrSvc := by unfold writeReg; simp
@[simp] theorem writeReg_spsrAbt (s : State) (r : Reg) (v : Word) : (s.writeReg r v).spsrAbt = s.spsrAbt := by unfold writeReg; simp
@[simp] theorem writeReg_spsrUnd (s : State) (r : Reg) (v : Word) : (s.writeReg r v).spsrUnd = s.spsrUnd := by unfold writeReg; simp
@[simp] theorem writeReg_pipeE (s : State) (r : Reg) (v : Word) : (s.writeReg r v).pipeE = s.pipeE := by unfold writeReg; simp
@[simp] theorem writeReg_pipeD (s : State) (r : Reg) (v : Word) : (s.writeReg r v).pipeD = s.pipeD := by unfold writeReg; simp
@[simp] theorem writeReg_pipeF (s : State) (r : Reg) (v : Word) : (s.writeReg r v).pipeF = s.pipeF := by unfold writeReg; simp
@[simp] theorem writeReg_pipeValid (s : State) (r : Reg) (v : Word) : (s.writeReg r v).pipeValid = s.pipeValid := by unfold writeReg; simp
@[simp] theorem writeReg_halted (s : State) (r : Reg) (v : Word) : (s.writeReg r v).halted = s.halted := by unfold writeReg; simp
@[simp] theorem writeReg_ie (s : State) (r : Reg) (v : Word) : (s.writeReg r v).ie = s.ie := by unfold writeReg; simp
@[simp] theorem writeReg_iflag (s : State) (r : Reg) (v : Word) : (s.writeReg r v).iflag = s.iflag := by unfold writeReg; simp
@[simp] theorem writeReg_ime (s : State) (r : Reg) (v : Word) : (s.writeReg r v).ime = s.ime := by unfold writeReg; simp
@[simp] theorem writeReg_dma (s : State) (r : Reg) (v : Word) : (s.writeReg r v).dma = s.dma := by unfold writeReg; simp
@[simp] theorem writeReg_vblankPulse (s : State) (r : Reg) (v : Word) : (s.writeReg r v).vblankPulse = s.vblankPulse := by unfold writeReg; simp
@[simp] theorem writeReg_hblankPulse (s : State) (r : Reg) (v : Word) : (s.writeReg r v).hblankPulse = s.hblankPulse := by unfold writeReg; simp
@[simp] theorem writeReg_timers (s : State) (r : Reg) (v : Word) : (s.writeReg r v).timers = s.timers := by unfold writeReg; simp
@[simp] theorem writeReg_lcd (s : State) (r : Reg) (v : Word) : (s.writeReg r v).lcd = s.lcd := by unfold writeReg; simp
@[simp] theorem writeReg_keycnt (s : State) (r : Reg) (v : Word) : (s.writeReg r v).keycnt = s.keycnt := by unfold writeReg; simp
@[simp] theorem writeReg_keyState (s : State) (r : Reg) (v : Word) : (s.writeReg r v).keyState = s.keyState := by unfold writeReg; simp
@[simp] theorem writeReg_keyInput (s : State) (r : Reg) (v : Word) : (s.writeReg r v).keyInput = s.keyInput := by unfold writeReg; simp
@[simp] theorem writeReg_mem (s : State) (r : Reg) (v : Word) : (s.writeReg r v).mem = s.mem := by unfold writeReg; simp
@[simp] theorem writeReg_save (s : State) (r : Reg) (v : Word) : (s.writeReg r v).save = s.save := by unfold writeReg; simp
@[simp] theorem writeReg_params (s : State) (r : Reg) (v : Word) : (s.writeReg r v).params = s.params := by unfold writeReg; simp
@[simp] theorem writeReg_diags (s : State) (r : Reg) (v : Word) : (s.writeReg r v).diags = s.diags := by unfold writeReg; simp
@[simp] theorem writeReg_pixels (s : State) (r : Reg) (v : Word) : (s.writeReg r v).pixels = s.pixels := by unfold writeReg; simp

@[simp] theorem setSpsrOf_gpr (s : State) (b : Bank) (p : Psr) : (s.setSpsrOf b p).gpr = s.gpr := by unfold setSpsrOf; split <;> rfl
@[simp] theorem setSpsrOf_r15 (s : State) (b : Bank) (p : Psr) : (s.setSpsrOf b p).r15 = s.r15 := by unfold setSpsrOf; split <;> rfl
@[simp] theorem setSpsrOf_pcWrite (s : State) (b : Bank) (p : Psr) : (s.setSpsrOf b p).pcWrite = s.pcWrite := by unfold setSpsrOf; split <;> rfl
@[simp] theorem setSpsrOf_cpsr (s : State) (b : Bank) (p : Psr) : (s.setSpsrOf b p).cpsr = s.cpsr := by unfold setSpsrOf; split <;> rfl
@[simp] theorem setSpsrOf_pipeE (s : State) (b : Bank) (p : Psr) : (s.setSpsrOf b p).pipeE = s.pipeE := by unfold setSpsrOf; split <;> rfl
@[simp] theorem setSpsrOf_pipeD (s : State) (b : Bank) (p : Psr) : (s.setSpsrOf b p).pipeD = s.pipeD := by unfold setSpsrOf; split <;> rfl
@[simp] theorem setSpsrOf_pipeF (s : State) (b : Bank) (p : Psr) : (s.setSpsrOf b p).pipeF = s.pipeF := by unfold setSpsrOf; split <;> rfl
@[simp] theorem setSpsrOf_pipeValid (s : State) (b : Bank) (p : Psr) : (s.setSpsrOf b p).pipeValid = s.pipeValid := by unfold setSpsrOf; split <;> rfl
@[simp] theorem setSpsrOf_halted (s : State) (b : Bank) (p : Psr) : (s.setSpsrOf b p).halted = s.halted := by unfold setSpsrOf; split <;> rfl
@[simp] theorem setSpsrOf_ie (s : State) (b : Bank) (p : Psr) : (s.setSpsrOf b p).ie = s.ie := by unfold setSpsrOf; split <;> rfl
@[simp] theorem setSpsrOf_iflag (s : State) (b : Bank) (p : Psr) : (s.setSpsrOf b p).iflag = s.iflag := by unfold setSpsrOf; split <;> rfl
@[simp] theorem setSpsrOf_ime (s : State) (b : Bank) (p : Psr) : (s.setSpsrOf b p).ime = s.ime := by unfold setSpsrOf; split <;> rfl
@[simp] theorem setSpsrOf_dma (s : State) (b : Bank) (p : Psr) : (s.setSpsrOf b p).dma = s.dma := by unfold setSpsrOf; split <;> rfl
@[simp] theorem setSpsrOf_vblankPulse (s : State) (b : Bank) (p : Psr) : (s.setSpsrOf b p).vblankPulse = s.vblankPulse := by unfold setSpsrOf; split <;> rfl
@[simp] theorem setSpsrOf_hblankPulse (s : State) (b : Bank) (p : Psr) : (s.setSpsrOf b p).hblankPulse = s.hblankPulse := by unfold setSpsrOf; split <;> rfl
@[simp] theorem setSpsrOf_timers (s : State) (b : Bank) (p : Psr) : (s.setSpsrOf b p).timers = s.timers := by unfold setSpsrOf; split <;> rfl
@[simp] theorem setSpsrOf_lcd (s : State) (b : Bank) (p : Psr) : (s.setSpsrOf b p).lcd = s.lcd := by unfold setSpsrOf; split <;> rfl
@[simp] theorem setSpsrOf_keycnt (s : State) (b : Bank) (p : Psr) : (s.setSpsrOf b p).keycnt = s.keycnt := by unfold setSpsrOf; split <;> rfl
@[simp] theorem setSpsrOf_keyState (s : State) (b : Bank) (p : Psr) : (s.setSpsrOf b p).keyState = s.keyState := by unfold setSpsrOf; split <;> rfl
@[simp] theorem setSpsrOf_keyInput (s : State) (b : Bank) (p : Psr) : (s.setSpsrOf b p).keyInput = s.keyInput := by unfold setSpsrOf; split <;> rfl
@[simp] theorem setSpsrOf_mem (s : State) (b : Bank) (p : Psr) : (s.setSpsrOf b p).mem = s.mem := by unfold setSpsrOf; split <;> rfl
@[simp] theorem setSpsrOf_save (s : State) (b : Bank) (p : Psr) : (s.setSpsrOf b p).save = s.save := by unfold setSpsrOf; split <;> rfl
@[simp] theorem setSpsrOf_params (s : State) (b : Bank) (p : Psr) : (s.setSpsrOf b p).params = s.params := by unfold setSpsrOf; split <;> rfl
@[simp] theorem setSpsrOf_diags (s : State) (b : Bank) (p : Psr) : (s.setSpsrOf b p).diags = s.diags := by unfold setSpsrOf; split <;> rfl
@[simp] theorem setSpsrOf_pixels (s : State) (b : Bank) (p : Psr) : (s.setSpsrOf b p).pixels = s.pixels := by unfold setSpsrOf; split <;> rfl

@[simp] theorem releaseHalt_gpr (s : State) : (s.releaseHalt).gpr = s.gpr := by unfold releaseHalt; split <;> rfl
@[simp] theorem releaseHalt_r15 (s : State) : (s.releaseHalt).r15 = s.r15 := by unfold releaseHalt; split <;> rfl
@[simp] theorem releaseHalt_pcWrite (s : State) : (s.releaseHalt).pcWrite = s.pcWrite := by unfold releaseHalt; split <;> rfl
@[simp] theorem releaseHalt_cpsr (s : State) : (s.releaseHalt).cpsr = s.cpsr := by unfold releaseHalt; split <;> rfl
@[simp] theorem releaseHalt_spsrFiq (s : State) : (s.releaseHalt).spsrFiq = s.spsrFiq := by unfold releaseHalt; split <;> rfl
@[simp] theorem releaseHalt_spsrIrq (s : State) : (s.releaseHalt).spsrIrq = s.spsrIrq := by unfold releaseHalt; split <;> rfl
@[simp] theorem releaseHalt_spsrSvc (s : State) : (s.releaseHalt).spsrSvc = s.spsrSvc := by unfold releaseHalt; split <;> rfl
@[simp] theorem releaseHalt_spsrAbt (s : State) : (s.releaseHalt).spsrAbt = s.spsrAbt := by unfold releaseHalt; split <;> rfl
@[simp] theorem releaseHalt_spsrUnd (s : State) : (s.releaseHalt).spsrUnd = s.spsrUnd := by unfold releaseHalt; split <;> rfl
@[simp] theorem releaseHalt_pipeE (s : State) : (s.releaseHalt).pipeE = s.pipeE := by unfold releaseHalt; split <;> rfl
@[simp] theorem releaseHalt_pipeD (s : State) : (s.releaseHalt).pipeD = s.pipeD := by unfold releaseHalt; split <;> rfl
@[simp] theorem releaseHalt_pipeF (s : State) : (s.releaseHalt).pipeF = s.pipeF := by unfold releaseHalt; split <;> rfl
@[simp] theorem releaseHalt_pipeValid (s : State) : (s.releaseHalt).pipeValid = s.pipeValid := by unfold releaseHalt; split <;> rfl
@[simp] theorem releaseHalt_ie (s : State) : (s.releaseHalt).ie = s.ie := by unfold releaseHalt; split <;> rfl
@[simp] theorem releaseHalt_iflag (s : State) : (s.releaseHalt).iflag = s.iflag := by unfold releaseHalt; split <;> rfl
@[simp] theorem releaseHalt_ime (s : State) : (s.releaseHalt).ime = s.ime := by unfold releaseHalt; split <;> rfl
@[simp] theorem releaseHalt_dma (s : State) : (s.releaseHalt).dma = s.dma := by unfold releaseHalt; split <;> rfl
@[simp] theorem releaseHalt_vblankPulse (s : State) : (s.releaseHalt).vblankPulse = s.vblankPulse := by unfold releaseHalt; split <;> rfl
@[simp] theorem releaseHalt_hblankPulse (s : State) : (s.releaseHalt).hblankPulse = s.hblankPulse := by unfold releaseHalt; split <;> rfl
@[simp] theorem releaseHalt_timers (s : State) : (s.releaseHalt).timers = s.timers := by unfold releaseHalt; split <;> rfl
@[simp] theorem releaseHalt_lcd (s : State) : (s.releaseHalt).lcd = s.lcd := by unfold releaseHalt; split <;> rfl
@[simp] theorem releaseHalt_keycnt (s : State) : (s.releaseHalt).keycnt = s.keycnt := by unfold releaseHalt; split <;> rfl
@[simp] theorem releaseHalt_keyState (s : State) : (s.releaseHalt).keyState = s.keyState := by unfold releaseHalt; split <;> rfl
@[simp] theorem releaseHalt_keyInput (s : State) : (s.releaseHalt).keyInput = s.keyInput := by unfold releaseHalt; split <;> rfl
@[simp] theorem releaseHalt_mem (s : State) : (s.releaseHalt).mem = s.mem := by unfold releaseHalt; split <;> rfl
@[simp] theorem releaseHalt_save (s : State) : (s.releaseHalt).save = s.save := by unfold releaseHalt; split <;> rfl
@[simp] theorem releaseHalt_params (s : State) : (s.releaseHalt).params = s.params := by unfold releaseHalt; split <;> rfl
@[simp] theorem releaseHalt_diags (s : State) : (s.releaseHalt).diags = s.diags := by unfold releaseHalt; split <;> rfl
@[simp] theorem releaseHalt_pixels (s : State) : (s.releaseHalt).pixels = s.pixels := by unfold releaseHalt; split <;> rfl

@[simp] theorem request_gpr (s : State) (n : Nat) : (s.request n).gpr = s.gpr := by unfold request; simp
@[simp] theorem request_r15 (s : State) (n : Nat) : (s.request n).r15 = s.r15 := by unfold request; simp
@[simp] theorem request_pcWrite (s : State) (n : Nat) : (s.request n).pcWrite = s.pcWrite := by unfold request; simp
@[simp] theorem request_cpsr (s : State) (n : Nat) : (s.request n).cpsr = s.cpsr := by unfold request; simp
@[simp] theorem request_spsrFiq (s : State) (n : Nat) : (s.request n).spsrFiq = s.spsrFiq := by unfold request; simp
@[simp] theorem request_spsrIrq (s : State) (n : Nat) : (s.request n).spsrIrq = s.spsrIrq := by unfold request; simp
@[simp] theorem request_spsrSvc (s : State) (n : Nat) : (s.request n).spsrSvc = s.spsrSvc := by unfold request; simp
@[simp] theorem request_spsrAbt (s : State) (n : Nat) : (s.request n).spsrAbt = s.spsrAbt := by unfold request; simp
@[simp] theorem request_spsrUnd (s : State) (n : Nat) : (s.request n).spsrUnd = s.spsrUnd := by unfold request; simp
@[simp] theorem request_pipeE (s : State) (n : Nat) : (s.request n).pipeE = s.pipeE := by unfold request; simp
@[simp] theorem request_pipeD (s : State) (n : Nat) : (s.request n).pipeD = s.pipeD := by unfold request; simp
@[simp] theorem request_pipeF (s : State) (n : Nat) : (s.request n).pipeF = s.pipeF := by unfold request; simp
@[simp] theorem request_pipeValid (s : State) (n : Nat) : (s.request n).pipeValid = s.pipeValid := by unfold request; simp
@[simp] theorem request_ie (s : State) (n : Nat) : (s.request n).ie = s.ie := by unfold request; simp
@[simp] theorem request_ime (s : State) (n : Nat) : (s.request n).ime = s.ime := by unfold request; simp
@[simp] theorem request_dma (s : State) (n : Nat) : (s.request n).dma = s.dma := by unfold request; simp
@[simp] theorem request_vblankPulse (s : State) (n : Nat) : (s.request n).vblankPulse = s.vblankPulse := by unfold request; simp
@[simp] theorem request_hblankPulse (s : State) (n : Nat) : (s.request n).hblankPulse = s.hblankPulse := by unfold request; simp
@[simp] theorem request_timers (s : State) (n : Nat) : (s.request n).timers = s.timers := by unfold request; simp
@[simp] theorem request_lcd (s : State) (n : Nat) : (s.request n).lcd = s.lcd := by unfold request; simp
@[simp] theorem request_keycnt (s : State) (n : Nat) : (s.request n).keycnt = s.keycnt := by unfold request; simp
@[simp] theorem request_keyState (s : State) (n : Nat) : (s.request n).keyState = s.keyState := by unfold request; simp
@[simp] theorem request_keyInput (s : State) (n : Nat) : (s.request n).keyInput = s.keyInput := by unfold request; simp
@[simp] theorem request_mem (s : State) (n : Nat) : (s.request n).mem = s.mem := by unfold request; simp
@[simp] theorem request_save (s : State) (n : Nat) : (s.request n).save = s.save := by unfold request; simp
@[simp] theorem request_params (s : State) (n : Nat) : (s.request n).params = s.params := by unfold request; simp
@[simp] theorem request_diags (s : State) (n : Nat) : (s.request n).diags = s.diags := by unfold request; simp
@[simp] theorem request_pixels (s : State) (n : Nat) : (s.request n).pixels = s.pixels := by unfold request; simp

@[simp] theorem request_iflag (s : State) (n : Nat) : (s.request n).iflag = s.iflag ||| (1#16 <<< n) := by
  unfold request; simp

end State
end Sys2Proof.Machine
end

