-- ==== Sys2Proof/Laws/Ops.lean ====
section
/-! SUPPORT. What the register and status operations do. -/

namespace Sys2Proof.Machine

/-- R14 has one place of its own in every bank, which is no place of another number. -/
theorem physIndex_eq_iff (b : Bank) (r q : Reg) (hr : r ≠ 15) (hq : q ≠ 15) : physIndex b r = physIndex b q ↔ r = q := by
  constructor
  · intro h
    have h15 : r.toNat ≠ 15 := fun e => hr (BitVec.eq_of_toNat_eq e)
    have q15 : q.toNat ≠ 15 := fun e => hq (BitVec.eq_of_toNat_eq e)
    have hr' := r.isLt
    have hq' := q.isLt
    apply BitVec.eq_of_toNat_eq
    unfold physIndex bankBase at h
    cases b <;> simp only [reduceCtorEq, if_true, if_false] at h <;> (repeat' split at h) <;> omega
  · exact congrArg _

namespace State

theorem writeBank_gpr_of_ne {s : State} {b : Bank} {r : Reg} {v : Word} (h : r ≠ 15) :
    (s.writeBank b r v).gpr = s.gpr.set (physIndex b r) v (physIndex_lt b r) := by rw [writeBank, if_neg h]

theorem writeBank_pcWrite_of_ne {s : State} {b : Bank} {r : Reg} {v : Word} (h : r ≠ 15) :
    (s.writeBank b r v).pcWrite = s.pcWrite := by rw [writeBank, if_neg h]

theorem writeReg_pcWrite_of_ne {s : State} {r : Reg} {v : Word} (h : r ≠ 15) :
    (s.writeReg r v).pcWrite = s.pcWrite := writeBank_pcWrite_of_ne h

@[simp] theorem writeBank_15 (s : State) (b : Bank) (v : Word) : s.writeBank b 15 v = s.branchTo v := rfl
@[simp] theorem writeReg_15 (s : State) (v : Word) : s.writeReg 15 v = s.branchTo v := rfl

@[simp] theorem bank_begin (s : State) : s.begin.bank = s.bank := rfl
@[simp] theorem bank_noteCond (s : State) (c : Cond) : (s.noteCond c).bank = s.bank := by simp [bank]
@[simp] theorem bank_writeBank (s : State) (b : Bank) (r : Reg) (v : Word) : (s.writeBank b r v).bank = s.bank := by simp [bank]
@[simp] theorem bank_writeReg (s : State) (r : Reg) (v : Word) : (s.writeReg r v).bank = s.bank := by simp [bank]
@[simp] theorem bank_emitHere (s : State) (k : DiagKind) : (s.emitHere k).bank = s.bank := rfl
@[simp] theorem bank_branchTo (s : State) (v : Word) : (s.branchTo v).bank = s.bank := rfl

/-- Registers read the same in two states with the same register file and R15. -/
theorem readBank_congr {s t : State} (hg : t.gpr = s.gpr) (hp : t.r15 = s.r15) (b : Bank) (r : Reg) :
    t.readBank b r = s.readBank b r := by simp only [readBank, hg, hp]

theorem readBank_congr_of_ne {s t : State} (hg : t.gpr = s.gpr) (b : Bank) {r : Reg} (h : r ≠ 15) :
    t.readBank b r = s.readBank b r := by simp only [readBank, hg, h, if_false]

theorem readReg_congr {s t : State} (hg : t.gpr = s.gpr) (hp : t.r15 = s.r15) (hc : t.cpsr = s.cpsr) (r : Reg) :
    t.readReg r = s.readReg r := by simp only [readReg, bank, hc]; exact readBank_congr hg hp _ r

@[simp] theorem readReg_15 (s : State) : s.readReg 15 = s.r15 := rfl
@[simp] theorem readBank_15 (s : State) (b : Bank) : s.readBank b 15 = s.r15 := rfl

@[simp] theorem readReg_begin (s : State) (r : Reg) : s.begin.readReg r = s.readReg r := rfl
@[simp] theorem readReg_noteCond (s : State) (c : Cond) (r : Reg) : (s.noteCond c).readReg r = s.readReg r :=
  readReg_congr (by simp) (by simp) (by simp) r
@[simp] theorem readReg_emitHere (s : State) (k : DiagKind) (r : Reg) : (s.emitHere k).readReg r = s.readReg r := rfl
@[simp] theorem readReg_branchTo (s : State) (v : Word) (r : Reg) : (s.branchTo v).readReg r = s.readReg r := rfl
@[simp] theorem readBank_begin (s : State) (b : Bank) (r : Reg) : s.begin.readBank b r = s.readBank b r := rfl
@[simp] theorem readBank_noteCond (s : State) (c : Cond) (b : Bank) (r : Reg) :
    (s.noteCond c).readBank b r = s.readBank b r := readBank_congr (by simp) (by simp) b r
@[simp] theorem readBank_branchTo (s : State) (v : Word) (b : Bank) (r : Reg) :
    (s.branchTo v).readBank b r = s.readBank b r := rfl
@[simp] theorem readBank_setCpsr (s : State) (p : Psr) (b : Bank) (r : Reg) :
    (s.setCpsr p).readBank b r = s.readBank b r := rfl
@[simp] theorem readBank_updateFlags (s : State) (g : Psr → Psr) (b : Bank) (r : Reg) :
    (s.updateFlags g).readBank b r = s.readBank b r := rfl
@[simp] theorem readBank_emitHere (s : State) (k : DiagKind) (b : Bank) (r : Reg) :
    (s.emitHere k).readBank b r = s.readBank b r := rfl

/-- Reading the place just written. -/
theorem readBank_writeBank_same (s : State) (b : Bank) {r : Reg} (v : Word) (h : r ≠ 15) :
    (s.writeBank b r v).readBank b r = v := by
  rw [readBank, if_neg h]; simp only [writeBank_gpr_of_ne h, Vector.getElem_set_self]

/-- Reading another place. -/
theorem readBank_writeBank_other (s : State) (b b' : Bank) (r q : Reg) (v : Word)
    (h : r ≠ 15 → q ≠ 15 → physIndex b' q ≠ physIndex b r) :
    (s.writeBank b r v).readBank b' q = s.readBank b' q := by
  unfold readBank writeBank
  by_cases hr : r = 15
  · rw [if_pos hr]
  · by_cases hq : q = 15
    · rw [if_neg hr, if_pos hq, if_pos hq]
    · rw [if_neg hr, if_neg hq, if_neg hq]
      exact Vector.getElem_set_ne (physIndex_lt b r) _ (h hr hq).symm

theorem readReg_writeReg_same (s : State) {r : Reg} (v : Word) (h : r ≠ 15) : (s.writeReg r v).readReg r = v := by
  unfold readReg; rw [bank_writeReg]; exact readBank_writeBank_same s s.bank v h

theorem readReg_writeReg_other (s : State) {r q : Reg} (v : Word) (h : q ≠ r) : (s.writeReg r v).readReg q = s.readReg q := by
  unfold readReg; rw [bank_writeReg]
  exact readBank_writeBank_other s s.bank s.bank r q v fun hr hq e => h ((physIndex_eq_iff _ _ _ hq hr).1 e)

/-- A flag update that keeps the mode keeps every register name. -/
theorem bank_updateFlags {s : State} {g : Psr → Psr} (h : (g s.cpsr).mode = s.cpsr.mode) :
    (s.updateFlags g).bank = s.bank := by simp [bank, h]

theorem readReg_updateFlags {s : State} {g : Psr → Psr} (h : (g s.cpsr).mode = s.cpsr.mode) (r : Reg) :
    (s.updateFlags g).readReg r = s.readReg r := by
  unfold readReg; rw [bank_updateFlags h]; rfl

theorem setSpsrOf_gpr_eq (s : State) (b : Bank) (p : Psr) : (s.setSpsrOf b p).gpr = s.gpr := by simp

/-- An SPSR after a write to one. -/
theorem spsrOf_setSpsrOf (s : State) (b b' : Bank) (p : Psr) :
    (s.setSpsrOf b p).spsrOf b' = if b' = b ∧ b ≠ .usr then some p else s.spsrOf b' := by
  cases b <;> cases b' <;> rfl

theorem spsrOf_congr {s t : State} (hf : t.spsrFiq = s.spsrFiq) (hi : t.spsrIrq = s.spsrIrq) (hs : t.spsrSvc = s.spsrSvc)
    (ha : t.spsrAbt = s.spsrAbt) (hu : t.spsrUnd = s.spsrUnd) (b : Bank) : t.spsrOf b = s.spsrOf b := by
  cases b <;> simp only [spsrOf, hf, hi, hs, ha, hu]

@[simp] theorem spsrOf_begin (s : State) (b : Bank) : s.begin.spsrOf b = s.spsrOf b := by cases b <;> rfl
@[simp] theorem spsrOf_noteCond (s : State) (c : Cond) (b : Bank) : (s.noteCond c).spsrOf b = s.spsrOf b :=
  spsrOf_congr (by simp) (by simp) (by simp) (by simp) (by simp) b

end State

/-- A status register read back after a write of its word (R25). -/
@[simp] theorem Psr.ofWord_toWord (p : Psr) : Psr.ofWord p.toWord = p := by
  obtain ⟨n, z, c, v, i, f, t, mode⟩ := p
  simp only [Psr.ofWord, Psr.mk.injEq]
  refine ⟨?_, ?_, ?_, ?_, ?_, ?_, ?_, ?_⟩
  case refine_8 =>
    ext k hk
    simp only [Psr.toWord, BitVec.getElem_extractLsb', BitVec.getLsbD_append]
    simp [hk]
  all_goals
    simp only [Psr.toWord, BitVec.getLsbD_append]
    simp

@[simp] theorem logicalFlags_mode (r : Word) (co : Option Bool) (p : Psr) : (logicalFlags r co p).mode = p.mode := rfl
@[simp] theorem arithFlags_mode (r : Sum) (p : Psr) : (arithFlags r p).mode = p.mode := rfl
@[simp] theorem mulFlags_mode (r : Word) (p : Psr) : (mulFlags r p).mode = p.mode := rfl
@[simp] theorem mullFlags_mode (r : BitVec 64) (p : Psr) : (mullFlags r p).mode = p.mode := rfl
@[simp] theorem logicalFlags_t (r : Word) (co : Option Bool) (p : Psr) : (logicalFlags r co p).t = p.t := rfl
@[simp] theorem arithFlags_t (r : Sum) (p : Psr) : (arithFlags r p).t = p.t := rfl
@[simp] theorem mulFlags_t (r : Word) (p : Psr) : (mulFlags r p).t = p.t := rfl
@[simp] theorem mullFlags_t (r : BitVec 64) (p : Psr) : (mullFlags r p).t = p.t := rfl

/-- Operand 2 depends on the registers and the CPSR only. -/
theorem State.operand2_congr {s t : State} (hg : t.gpr = s.gpr) (hp : t.r15 = s.r15) (hc : t.cpsr = s.cpsr) (o : Operand2) :
    t.operand2 o = s.operand2 o := by
  cases o <;> simp only [State.operand2, State.readReg_congr hg hp hc, hc]

@[simp] theorem State.operand2_begin (s : State) (o : Operand2) : s.begin.operand2 o = s.operand2 o := by cases o <;> rfl
@[simp] theorem State.operand2_noteCond (s : State) (c : Cond) (o : Operand2) : (s.noteCond c).operand2 o = s.operand2 o :=
  State.operand2_congr (by simp) (by simp) (by simp) o

theorem State.sdtAddress_congr {s t : State} (hg : t.gpr = s.gpr) (hp : t.r15 = s.r15) (hc : t.cpsr = s.cpsr)
    (p u w : Bool) (rn : Reg) (off : SdtOffset) : t.sdtAddress p u w rn off = s.sdtAddress p u w rn off := by
  cases off <;> simp only [State.sdtAddress, State.sdtOffset, State.readReg_congr hg hp hc, hc]

theorem State.hsdtAddress_congr {s t : State} (hg : t.gpr = s.gpr) (hp : t.r15 = s.r15) (hc : t.cpsr = s.cpsr)
    (p u w : Bool) (rn : Reg) (off : HsdtOffset) : t.hsdtAddress p u w rn off = s.hsdtAddress p u w rn off := by
  cases off <;> simp only [State.hsdtAddress, State.hsdtOffset, State.readReg_congr hg hp hc]

@[simp] theorem State.sdtAddress_begin (s : State) (p u w : Bool) (rn : Reg) (off : SdtOffset) :
    s.begin.sdtAddress p u w rn off = s.sdtAddress p u w rn off := by cases off <;> rfl
@[simp] theorem State.sdtAddress_noteCond (s : State) (c : Cond) (p u w : Bool) (rn : Reg) (off : SdtOffset) :
    (s.noteCond c).sdtAddress p u w rn off = s.sdtAddress p u w rn off :=
  State.sdtAddress_congr (by simp) (by simp) (by simp) p u w rn off
@[simp] theorem State.hsdtAddress_begin (s : State) (p u w : Bool) (rn : Reg) (off : HsdtOffset) :
    s.begin.hsdtAddress p u w rn off = s.hsdtAddress p u w rn off := by cases off <;> rfl
@[simp] theorem State.hsdtAddress_noteCond (s : State) (c : Cond) (p u w : Bool) (rn : Reg) (off : HsdtOffset) :
    (s.noteCond c).hsdtAddress p u w rn off = s.hsdtAddress p u w rn off :=
  State.hsdtAddress_congr (by simp) (by simp) (by simp) p u w rn off

end Sys2Proof.Machine
end

