-- ==== Sys2Proof/Laws/Bus.lean ====
section
/-! SUPPORT. What the bus does: a read changes nothing but the save device's history and the diagnostics; a write reaches memory
at the canonical address of its byte, or an I/O register; RAM reads back what was written. -/

namespace Sys2Proof.Machine

theorem SameDevices.trans {s t u : State} (h : SameDevices s t) (g : SameDevices t u) : SameDevices s u :=
  ⟨g.1.trans h.1, g.2.trans h.2, g.3.trans h.3, g.4.trans h.4, g.5.trans h.5, g.6.trans h.6, g.7.trans h.7, g.8.trans h.8,
   g.9.trans h.9, g.10.trans h.10, g.11.trans h.11, g.12.trans h.12, g.13.trans h.13, g.14.trans h.14⟩

theorem SameSpsrs.trans {s t u : State} (h : SameSpsrs s t) (g : SameSpsrs t u) : SameSpsrs s u :=
  ⟨g.1.trans h.1, g.2.trans h.2, g.3.trans h.3, g.4.trans h.4, g.5.trans h.5⟩

namespace State

/-! ## Reads -/

theorem busReadByte_frame (s : State) (a : Word) : ∃ h, (s.busReadByte a).2 = { s with save := h } := by
  unfold busReadByte
  split <;> try exact ⟨s.save, rfl⟩
  split
  · exact ⟨_, rfl⟩
  · exact ⟨s.save, rfl⟩

theorem readBytes_frame (k : Nat) : ∀ (s : State) (a : Word), ∃ h, (s.readBytes a k).2 = { s with save := h } := by
  induction k with
  | zero => exact fun s _ => ⟨s.save, rfl⟩
  | succ k ih =>
    intro s a
    obtain ⟨h1, e1⟩ := busReadByte_frame s a
    obtain ⟨h2, e2⟩ := ih (s.busReadByte a).2 (a + 1)
    exact ⟨h2, e2.trans (by rw [e1])⟩

/-- A bus read changes nothing but the save device's history and the diagnostic stream. -/
theorem memRead_frame (s : State) (a : Word) (n : Nat) : ∃ h d, (s.memRead a n).2 = { s with save := h, diags := d } := by
  obtain ⟨h, e⟩ := readBytes_frame n s (alignTo a n)
  unfold memRead busRead
  simp only [e]
  split
  · exact ⟨h, _, rfl⟩
  · exact ⟨h, s.diags, rfl⟩

@[simp] theorem memRead_gpr (s : State) (a : Word) (n : Nat) : (s.memRead a n).2.gpr = s.gpr := by
  obtain ⟨h, d, e⟩ := memRead_frame s a n; rw [e]
@[simp] theorem memRead_r15 (s : State) (a : Word) (n : Nat) : (s.memRead a n).2.r15 = s.r15 := by
  obtain ⟨h, d, e⟩ := memRead_frame s a n; rw [e]
@[simp] theorem memRead_pcWrite (s : State) (a : Word) (n : Nat) : (s.memRead a n).2.pcWrite = s.pcWrite := by
  obtain ⟨h, d, e⟩ := memRead_frame s a n; rw [e]
@[simp] theorem memRead_cpsr (s : State) (a : Word) (n : Nat) : (s.memRead a n).2.cpsr = s.cpsr := by
  obtain ⟨h, d, e⟩ := memRead_frame s a n; rw [e]
@[simp] theorem memRead_spsrFiq (s : State) (a : Word) (n : Nat) : (s.memRead a n).2.spsrFiq = s.spsrFiq := by
  obtain ⟨h, d, e⟩ := memRead_frame s a n; rw [e]
@[simp] theorem memRead_spsrIrq (s : State) (a : Word) (n : Nat) : (s.memRead a n).2.spsrIrq = s.spsrIrq := by
  obtain ⟨h, d, e⟩ := memRead_frame s a n; rw [e]
@[simp] theorem memRead_spsrSvc (s : State) (a : Word) (n : Nat) : (s.memRead a n).2.spsrSvc = s.spsrSvc := by
  obtain ⟨h, d, e⟩ := memRead_frame s a n; rw [e]
@[simp] theorem memRead_spsrAbt (s : State) (a : Word) (n : Nat) : (s.memRead a n).2.spsrAbt = s.spsrAbt := by
  obtain ⟨h, d, e⟩ := memRead_frame s a n; rw [e]
@[simp] theorem memRead_spsrUnd (s : State) (a : Word) (n : Nat) : (s.memRead a n).2.spsrUnd = s.spsrUnd := by
  obtain ⟨h, d, e⟩ := memRead_frame s a n; rw [e]
@[simp] theorem memRead_pipeE (s : State) (a : Word) (n : Nat) : (s.memRead a n).2.pipeE = s.pipeE := by
  obtain ⟨h, d, e⟩ := memRead_frame s a n; rw [e]
@[simp] theorem memRead_pipeD (s : State) (a : Word) (n : Nat) : (s.memRead a n).2.pipeD = s.pipeD := by
  obtain ⟨h, d, e⟩ := memRead_frame s a n; rw [e]
@[simp] theorem memRead_pipeF (s : State) (a : Word) (n : Nat) : (s.memRead a n).2.pipeF = s.pipeF := by
  obtain ⟨h, d, e⟩ := memRead_frame s a n; rw [e]
@[simp] theorem memRead_pipeValid (s : State) (a : Word) (n : Nat) : (s.memRead a n).2.pipeValid = s.pipeValid := by
  obtain ⟨h, d, e⟩ := memRead_frame s a n; rw [e]
@[simp] theorem memRead_halted (s : State) (a : Word) (n : Nat) : (s.memRead a n).2.halted = s.halted := by
  obtain ⟨h, d, e⟩ := memRead_frame s a n; rw [e]
@[simp] theorem memRead_ie (s : State) (a : Word) (n : Nat) : (s.memRead a n).2.ie = s.ie := by
  obtain ⟨h, d, e⟩ := memRead_frame s a n; rw [e]
@[simp] theorem memRead_iflag (s : State) (a : Word) (n : Nat) : (s.memRead a n).2.iflag = s.iflag := by
  obtain ⟨h, d, e⟩ := memRead_frame s a n; rw [e]
@[simp] theorem memRead_ime (s : State) (a : Word) (n : Nat) : (s.memRead a n).2.ime = s.ime := by
  obtain ⟨h, d, e⟩ := memRead_frame s a n; rw [e]
@[simp] theorem memRead_dma (s : State) (a : Word) (n : Nat) : (s.memRead a n).2.dma = s.dma := by
  obtain ⟨h, d, e⟩ := memRead_frame s a n; rw [e]
@[simp] theorem memRead_vblankPulse (s : State) (a : Word) (n : Nat) : (s.memRead a n).2.vblankPulse = s.vblankPulse := by
  obtain ⟨h, d, e⟩ := memRead_frame s a n; rw [e]
@[simp] theorem memRead_hblankPulse (s : State) (a : Word) (n : Nat) : (s.memRead a n).2.hblankPulse = s.hblankPulse := by
  obtain ⟨h, d, e⟩ := memRead_frame s a n; rw [e]
@[simp] theorem memRead_timers (s : State) (a : Word) (n : Nat) : (s.memRead a n).2.timers = s.timers := by
  obtain ⟨h, d, e⟩ := memRead_frame s a n; rw [e]
@[simp] theorem memRead_lcd (s : State) (a : Word) (n : Nat) : (s.memRead a n).2.lcd = s.lcd := by
  obtain ⟨h, d, e⟩ := memRead_frame s a n; rw [e]
@[simp] theorem memRead_keycnt (s : State) (a : Word) (n : Nat) : (s.memRead a n).2.keycnt = s.keycnt := by
  obtain ⟨h, d, e⟩ := memRead_frame s a n; rw [e]
@[simp] theorem memRead_keyState (s : State) (a : Word) (n : Nat) : (s.memRead a n).2.keyState = s.keyState := by
  obtain ⟨h, d, e⟩ := memRead_frame s a n; rw [e]
@[simp] theorem memRead_keyInput (s : State) (a : Word) (n : Nat) : (s.memRead a n).2.keyInput = s.keyInput := by
  obtain ⟨h, d, e⟩ := memRead_frame s a n; rw [e]
@[simp] theorem memRead_mem (s : State) (a : Word) (n : Nat) : (s.memRead a n).2.mem = s.mem := by
  obtain ⟨h, d, e⟩ := memRead_frame s a n; rw [e]
@[simp] theorem memRead_params (s : State) (a : Word) (n : Nat) : (s.memRead a n).2.params = s.params := by
  obtain ⟨h, d, e⟩ := memRead_frame s a n; rw [e]
@[simp] theorem memRead_pixels (s : State) (a : Word) (n : Nat) : (s.memRead a n).2.pixels = s.pixels := by
  obtain ⟨h, d, e⟩ := memRead_frame s a n; rw [e]

/-- The diagnostic of a bus read: one, if a byte is unmapped (R63, R70). -/
theorem memRead_diags (s : State) (a : Word) (n : Nat) : (s.memRead a n).2.diags =
    if anyByte (fun x => !s.readMapped x) (alignTo a n) n then ⟨.unmappedRead, alignTo a n⟩ :: s.diags else s.diags := by
  obtain ⟨h, e⟩ := readBytes_frame n s (alignTo a n)
  unfold memRead busRead
  simp only [e]
  split <;> rfl

/-- What a bus read depends on. -/
structure BusEq (s t : State) : Prop where
  mem    : t.mem = s.mem
  params : t.params = s.params
  save   : t.save = s.save
  dma    : t.dma = s.dma
  timers : t.timers = s.timers
  lcd    : t.lcd = s.lcd
  keycnt : t.keycnt = s.keycnt
  keys   : t.keyState = s.keyState
  ie     : t.ie = s.ie
  iflag  : t.iflag = s.iflag
  ime    : t.ime = s.ime

theorem BusEq.ioReadByte {s t : State} (h : BusEq s t) (o : Nat) : t.ioReadByte o = s.ioReadByte o := by
  unfold State.ioReadByte
  split <;> try rfl
  next r k _ _ _ =>
    cases r <;> simp only [ioValue, readKeyinput, h.dma, h.timers, h.lcd, h.keycnt, h.keys, h.ie, h.iflag, h.ime]

theorem BusEq.busReadByte {s t : State} (h : BusEq s t) (a : Word) :
    (t.busReadByte a).1 = (s.busReadByte a).1 ∧ BusEq (s.busReadByte a).2 (t.busReadByte a).2 := by
  have hm := h.mem
  have hp := h.params
  have hs := h.save
  unfold State.busReadByte
  split <;> simp only [h.ioReadByte, hm, hp, hs] <;> (try exact ⟨by trivial, h⟩)
  split
  · exact ⟨rfl, by
      constructor <;> first
        | rfl | exact h.dma | exact h.timers | exact h.lcd | exact h.keycnt | exact h.keys | exact h.ie | exact h.iflag
        | exact h.ime⟩
  · exact ⟨rfl, h⟩

theorem BusEq.readBytes (k : Nat) : ∀ {s t : State}, BusEq s t → ∀ a,
    (t.readBytes a k).1 = (s.readBytes a k).1 ∧ BusEq (s.readBytes a k).2 (t.readBytes a k).2 := by
  induction k with
  | zero => exact fun h _ => ⟨rfl, h⟩
  | succ k ih =>
    intro s t h a
    have h1 := h.busReadByte a
    have h2 := ih h1.2 (a + 1)
    refine ⟨?_, h2.2⟩
    show ((t.busReadByte a).1.setWidth 32 ||| ((t.busReadByte a).2.readBytes (a + 1) k).1 <<< 8) = _
    rw [h1.1, h2.1]; rfl

/-- Two states alike in what the bus sees read the same value. -/
theorem BusEq.memRead {s t : State} (h : BusEq s t) (a : Word) (n : Nat) : (t.memRead a n).1 = (s.memRead a n).1 :=
  (h.readBytes n (alignTo a n)).1

theorem busEq_begin (s : State) : BusEq s s.begin := ⟨rfl, rfl, rfl, rfl, rfl, rfl, rfl, rfl, rfl, rfl, rfl⟩
theorem busEq_noteCond (s : State) (c : Cond) : BusEq s (s.begin.noteCond c) := by
  constructor <;> simp
@[simp] theorem memRead_begin_noteCond (s : State) (c : Cond) (a : Word) (n : Nat) :
    ((s.begin.noteCond c).memRead a n).1 = (s.memRead a n).1 := (busEq_noteCond s c).memRead a n
@[simp] theorem memRead_begin (s : State) (a : Word) (n : Nat) : (s.begin.memRead a n).1 = (s.memRead a n).1 :=
  (busEq_begin s).memRead a n

/-- A byte of storage reads the same in two states with the same memory and parameters. -/
theorem busReadByte_congr {s t : State} (hm : t.mem = s.mem) (hp : t.params = s.params) {a : Word} (ha : isMemory a = true) :
    (t.busReadByte a).1 = (s.busReadByte a).1 := by
  unfold isMemory at ha
  unfold busReadByte
  split at ha <;> simp_all

/-! ## I/O writes -/

@[simp] theorem writeDmaCntH_gpr (s : State) (n : Fin 4) (k : Nat) (b : Byte) : (s.writeDmaCntH n k b).gpr = s.gpr := by
  unfold writeDmaCntH; simp only; (repeat' split) <;> rfl
@[simp] theorem writeDmaCntH_r15 (s : State) (n : Fin 4) (k : Nat) (b : Byte) : (s.writeDmaCntH n k b).r15 = s.r15 := by
  unfold writeDmaCntH; simp only; (repeat' split) <;> rfl
@[simp] theorem writeDmaCntH_pcWrite (s : State) (n : Fin 4) (k : Nat) (b : Byte) : (s.writeDmaCntH n k b).pcWrite = s.pcWrite := by
  unfold writeDmaCntH; simp only; (repeat' split) <;> rfl
@[simp] theorem writeDmaCntH_cpsr (s : State) (n : Fin 4) (k : Nat) (b : Byte) : (s.writeDmaCntH n k b).cpsr = s.cpsr := by
  unfold writeDmaCntH; simp only; (repeat' split) <;> rfl
@[simp] theorem writeDmaCntH_spsrFiq (s : State) (n : Fin 4) (k : Nat) (b : Byte) : (s.writeDmaCntH n k b).spsrFiq = s.spsrFiq := by
  unfold writeDmaCntH; simp only; (repeat' split) <;> rfl
@[simp] theorem writeDmaCntH_spsrIrq (s : State) (n : Fin 4) (k : Nat) (b : Byte) : (s.writeDmaCntH n k b).spsrIrq = s.spsrIrq := by
  unfold writeDmaCntH; simp only; (repeat' split) <;> rfl
@[simp] theorem writeDmaCntH_spsrSvc (s : State) (n : Fin 4) (k : Nat) (b : Byte) : (s.writeDmaCntH n k b).spsrSvc = s.spsrSvc := by
  unfold writeDmaCntH; simp only; (repeat' split) <;> rfl
@[simp] theorem writeDmaCntH_spsrAbt (s : State) (n : Fin 4) (k : Nat) (b : Byte) : (s.writeDmaCntH n k b).spsrAbt = s.spsrAbt := by
  unfold writeDmaCntH; simp only; (repeat' split) <;> rfl
@[simp] theorem writeDmaCntH_spsrUnd (s : State) (n : Fin 4) (k : Nat) (b : Byte) : (s.writeDmaCntH n k b).spsrUnd = s.spsrUnd := by
  unfold writeDmaCntH; simp only; (repeat' split) <;> rfl
@[simp] theorem writeDmaCntH_pipeE (s : State) (n : Fin 4) (k : Nat) (b : Byte) : (s.writeDmaCntH n k b).pipeE = s.pipeE := by
  unfold writeDmaCntH; simp only; (repeat' split) <;> rfl
@[simp] theorem writeDmaCntH_pipeD (s : State) (n : Fin 4) (k : Nat) (b : Byte) : (s.writeDmaCntH n k b).pipeD = s.pipeD := by
  unfold writeDmaCntH; simp only; (repeat' split) <;> rfl
@[simp] theorem writeDmaCntH_pipeF (s : State) (n : Fin 4) (k : Nat) (b : Byte) : (s.writeDmaCntH n k b).pipeF = s.pipeF := by
  unfold writeDmaCntH; simp only; (repeat' split) <;> rfl
@[simp] theorem writeDmaCntH_pipeValid (s : State) (n : Fin 4) (k : Nat) (b : Byte) : (s.writeDmaCntH n k b).pipeValid = s.pipeValid := by
  unfold writeDmaCntH; simp only; (repeat' split) <;> rfl
@[simp] theorem writeDmaCntH_vblankPulse (s : State) (n : Fin 4) (k : Nat) (b : Byte) : (s.writeDmaCntH n k b).vblankPulse = s.vblankPulse := by
  unfold writeDmaCntH; simp only; (repeat' split) <;> rfl
@[simp] theorem writeDmaCntH_hblankPulse (s : State) (n : Fin 4) (k : Nat) (b : Byte) : (s.writeDmaCntH n k b).hblankPulse = s.hblankPulse := by
  unfold writeDmaCntH; simp only; (repeat' split) <;> rfl
@[simp] theorem writeDmaCntH_keyState (s : State) (n : Fin 4) (k : Nat) (b : Byte) : (s.writeDmaCntH n k b).keyState = s.keyState := by
  unfold writeDmaCntH; simp only; (repeat' split) <;> rfl
@[simp] theorem writeDmaCntH_keyInput (s : State) (n : Fin 4) (k : Nat) (b : Byte) : (s.writeDmaCntH n k b).keyInput = s.keyInput := by
  unfold writeDmaCntH; simp only; (repeat' split) <;> rfl
@[simp] theorem writeDmaCntH_params (s : State) (n : Fin 4) (k : Nat) (b : Byte) : (s.writeDmaCntH n k b).params = s.params := by
  unfold writeDmaCntH; simp only; (repeat' split) <;> rfl
@[simp] theorem writeDmaCntH_pixels (s : State) (n : Fin 4) (k : Nat) (b : Byte) : (s.writeDmaCntH n k b).pixels = s.pixels := by
  unfold writeDmaCntH; simp only; (repeat' split) <;> rfl
@[simp] theorem writeDmaCntH_mem (s : State) (n : Fin 4) (k : Nat) (b : Byte) : (s.writeDmaCntH n k b).mem = s.mem := by
  unfold writeDmaCntH; simp only; (repeat' split) <;> rfl
@[simp] theorem writeDmaCntH_save (s : State) (n : Fin 4) (k : Nat) (b : Byte) : (s.writeDmaCntH n k b).save = s.save := by
  unfold writeDmaCntH; simp only; (repeat' split) <;> rfl

@[simp] theorem ioWriteByte_gpr (s : State) (o : Nat) (b : Byte) : (s.ioWriteByte o b).gpr = s.gpr := by
  unfold ioWriteByte
  split
  · next r k _ =>
    cases r <;> simp only [ioWriteReg, writeDmaCntH_gpr, writeTmCntH, writeHaltcnt, releaseHalt_gpr] <;> (repeat' split) <;> simp
  · rfl
@[simp] theorem ioWriteByte_r15 (s : State) (o : Nat) (b : Byte) : (s.ioWriteByte o b).r15 = s.r15 := by
  unfold ioWriteByte
  split
  · next r k _ =>
    cases r <;> simp only [ioWriteReg, writeDmaCntH_r15, writeTmCntH, writeHaltcnt, releaseHalt_r15] <;> (repeat' split) <;> simp
  · rfl
@[simp] theorem ioWriteByte_pcWrite (s : State) (o : Nat) (b : Byte) : (s.ioWriteByte o b).pcWrite = s.pcWrite := by
  unfold ioWriteByte
  split
  · next r k _ =>
    cases r <;> simp only [ioWriteReg, writeDmaCntH_pcWrite, writeTmCntH, writeHaltcnt, releaseHalt_pcWrite] <;> (repeat' split) <;> simp
  · rfl
@[simp] theorem ioWriteByte_cpsr (s : State) (o : Nat) (b : Byte) : (s.ioWriteByte o b).cpsr = s.cpsr := by
  unfold ioWriteByte
  split
  · next r k _ =>
    cases r <;> simp only [ioWriteReg, writeDmaCntH_cpsr, writeTmCntH, writeHaltcnt, releaseHalt_cpsr] <;> (repeat' split) <;> simp
  · rfl
@[simp] theorem ioWriteByte_spsrFiq (s : State) (o : Nat) (b : Byte) : (s.ioWriteByte o b).spsrFiq = s.spsrFiq := by
  unfold ioWriteByte
  split
  · next r k _ =>
    cases r <;> simp only [ioWriteReg, writeDmaCntH_spsrFiq, writeTmCntH, writeHaltcnt, releaseHalt_spsrFiq] <;> (repeat' split) <;> simp
  · rfl
@[simp] theorem ioWriteByte_spsrIrq (s : State) (o : Nat) (b : Byte) : (s.ioWriteByte o b).spsrIrq = s.spsrIrq := by
  unfold ioWriteByte
  split
  · next r k _ =>
    cases r <;> simp only [ioWriteReg, writeDmaCntH_spsrIrq, writeTmCntH, writeHaltcnt, releaseHalt_spsrIrq] <;> (repeat' split) <;> simp
  · rfl
@[simp] theorem ioWriteByte_spsrSvc (s : State) (o : Nat) (b : Byte) : (s.ioWriteByte o b).spsrSvc = s.spsrSvc := by
  unfold ioWriteByte
  split
  · next r k _ =>
    cases r <;> simp only [ioWriteReg, writeDmaCntH_spsrSvc, writeTmCntH, writeHaltcnt, releaseHalt_spsrSvc] <;> (repeat' split) <;> simp
  · rfl
@[simp] theorem ioWriteByte_spsrAbt (s : State) (o : Nat) (b : Byte) : (s.ioWriteByte o b).spsrAbt = s.spsrAbt := by
  unfold ioWriteByte
  split
  · next r k _ =>
    cases r <;> simp only [ioWriteReg, writeDmaCntH_spsrAbt, writeTmCntH, writeHaltcnt, releaseHalt_spsrAbt] <;> (repeat' split) <;> simp
  · rfl
@[simp] theorem ioWriteByte_spsrUnd (s : State) (o : Nat) (b : Byte) : (s.ioWriteByte o b).spsrUnd = s.spsrUnd := by
  unfold ioWriteByte
  split
  · next r k _ =>
    cases r <;> simp only [ioWriteReg, writeDmaCntH_spsrUnd, writeTmCntH, writeHaltcnt, releaseHalt_spsrUnd] <;> (repeat' split) <;> simp
  · rfl
@[simp] theorem ioWriteByte_pipeE (s : State) (o : Nat) (b : Byte) : (s.ioWriteByte o b).pipeE = s.pipeE := by
  unfold ioWriteByte
  split
  · next r k _ =>
    cases r <;> simp only [ioWriteReg, writeDmaCntH_pipeE, writeTmCntH, writeHaltcnt, releaseHalt_pipeE] <;> (repeat' split) <;> simp
  · rfl
@[simp] theorem ioWriteByte_pipeD (s : State) (o : Nat) (b : Byte) : (s.ioWriteByte o b).pipeD = s.pipeD := by
  unfold ioWriteByte
  split
  · next r k _ =>
    cases r <;> simp only [ioWriteReg, writeDmaCntH_pipeD, writeTmCntH, writeHaltcnt, releaseHalt_pipeD] <;> (repeat' split) <;> simp
  · rfl
@[simp] theorem ioWriteByte_pipeF (s : State) (o : Nat) (b : Byte) : (s.ioWriteByte o b).pipeF = s.pipeF := by
  unfold ioWriteByte
  split
  · next r k _ =>
    cases r <;> simp only [ioWriteReg, writeDmaCntH_pipeF, writeTmCntH, writeHaltcnt, releaseHalt_pipeF] <;> (repeat' split) <;> simp
  · rfl
@[simp] theorem ioWriteByte_pipeValid (s : State) (o : Nat) (b : Byte) : (s.ioWriteByte o b).pipeValid = s.pipeValid := by
  unfold ioWriteByte
  split
  · next r k _ =>
    cases r <;> simp only [ioWriteReg, writeDmaCntH_pipeValid, writeTmCntH, writeHaltcnt, releaseHalt_pipeValid] <;> (repeat' split) <;> simp
  · rfl
@[simp] theorem ioWriteByte_vblankPulse (s : State) (o : Nat) (b : Byte) : (s.ioWriteByte o b).vblankPulse = s.vblankPulse := by
  unfold ioWriteByte
  split
  · next r k _ =>
    cases r <;> simp only [ioWriteReg, writeDmaCntH_vblankPulse, writeTmCntH, writeHaltcnt, releaseHalt_vblankPulse] <;> (repeat' split) <;> simp
  · rfl
@[simp] theorem ioWriteByte_hblankPulse (s : State) (o : Nat) (b : Byte) : (s.ioWriteByte o b).hblankPulse = s.hblankPulse := by
  unfold ioWriteByte
  split
  · next r k _ =>
    cases r <;> simp only [ioWriteReg, writeDmaCntH_hblankPulse, writeTmCntH, writeHaltcnt, releaseHalt_hblankPulse] <;> (repeat' split) <;> simp
  · rfl
@[simp] theorem ioWriteByte_keyState (s : State) (o : Nat) (b : Byte) : (s.ioWriteByte o b).keyState = s.keyState := by
  unfold ioWriteByte
  split
  · next r k _ =>
    cases r <;> simp only [ioWriteReg, writeDmaCntH_keyState, writeTmCntH, writeHaltcnt, releaseHalt_keyState] <;> (repeat' split) <;> simp
  · rfl
@[simp] theorem ioWriteByte_keyInput (s : State) (o : Nat) (b : Byte) : (s.ioWriteByte o b).keyInput = s.keyInput := by
  unfold ioWriteByte
  split
  · next r k _ =>
    cases r <;> simp only [ioWriteReg, writeDmaCntH_keyInput, writeTmCntH, writeHaltcnt, releaseHalt_keyInput] <;> (repeat' split) <;> simp
  · rfl
@[simp] theorem ioWriteByte_params (s : State) (o : Nat) (b : Byte) : (s.ioWriteByte o b).params = s.params := by
  unfold ioWriteByte
  split
  · next r k _ =>
    cases r <;> simp only [ioWriteReg, writeDmaCntH_params, writeTmCntH, writeHaltcnt, releaseHalt_params] <;> (repeat' split) <;> simp
  · rfl
@[simp] theorem ioWriteByte_pixels (s : State) (o : Nat) (b : Byte) : (s.ioWriteByte o b).pixels = s.pixels := by
  unfold ioWriteByte
  split
  · next r k _ =>
    cases r <;> simp only [ioWriteReg, writeDmaCntH_pixels, writeTmCntH, writeHaltcnt, releaseHalt_pixels] <;> (repeat' split) <;> simp
  · rfl
@[simp] theorem ioWriteByte_mem (s : State) (o : Nat) (b : Byte) : (s.ioWriteByte o b).mem = s.mem := by
  unfold ioWriteByte
  split
  · next r k _ =>
    cases r <;> simp only [ioWriteReg, writeDmaCntH_mem, writeTmCntH, writeHaltcnt, releaseHalt_mem] <;> (repeat' split) <;> simp
  · rfl
@[simp] theorem ioWriteByte_save (s : State) (o : Nat) (b : Byte) : (s.ioWriteByte o b).save = s.save := by
  unfold ioWriteByte
  split
  · next r k _ =>
    cases r <;> simp only [ioWriteReg, writeDmaCntH_save, writeTmCntH, writeHaltcnt, releaseHalt_save] <;> (repeat' split) <;> simp
  · rfl

/-! ## Bus writes -/

@[simp] theorem busWriteByte_gpr (s : State) (a : Word) (b : Byte) : (s.busWriteByte a b).gpr = s.gpr := by
  unfold busWriteByte; split <;> (try split) <;> (try rfl) <;> simp
@[simp] theorem busWriteByte_r15 (s : State) (a : Word) (b : Byte) : (s.busWriteByte a b).r15 = s.r15 := by
  unfold busWriteByte; split <;> (try split) <;> (try rfl) <;> simp
@[simp] theorem busWriteByte_pcWrite (s : State) (a : Word) (b : Byte) : (s.busWriteByte a b).pcWrite = s.pcWrite := by
  unfold busWriteByte; split <;> (try split) <;> (try rfl) <;> simp
@[simp] theorem busWriteByte_cpsr (s : State) (a : Word) (b : Byte) : (s.busWriteByte a b).cpsr = s.cpsr := by
  unfold busWriteByte; split <;> (try split) <;> (try rfl) <;> simp
@[simp] theorem busWriteByte_spsrFiq (s : State) (a : Word) (b : Byte) : (s.busWriteByte a b).spsrFiq = s.spsrFiq := by
  unfold busWriteByte; split <;> (try split) <;> (try rfl) <;> simp
@[simp] theorem busWriteByte_spsrIrq (s : State) (a : Word) (b : Byte) : (s.busWriteByte a b).spsrIrq = s.spsrIrq := by
  unfold busWriteByte; split <;> (try split) <;> (try rfl) <;> simp
@[simp] theorem busWriteByte_spsrSvc (s : State) (a : Word) (b : Byte) : (s.busWriteByte a b).spsrSvc = s.spsrSvc := by
  unfold busWriteByte; split <;> (try split) <;> (try rfl) <;> simp
@[simp] theorem busWriteByte_spsrAbt (s : State) (a : Word) (b : Byte) : (s.busWriteByte a b).spsrAbt = s.spsrAbt := by
  unfold busWriteByte; split <;> (try split) <;> (try rfl) <;> simp
@[simp] theorem busWriteByte_spsrUnd (s : State) (a : Word) (b : Byte) : (s.busWriteByte a b).spsrUnd = s.spsrUnd := by
  unfold busWriteByte; split <;> (try split) <;> (try rfl) <;> simp
@[simp] theorem busWriteByte_pipeE (s : State) (a : Word) (b : Byte) : (s.busWriteByte a b).pipeE = s.pipeE := by
  unfold busWriteByte; split <;> (try split) <;> (try rfl) <;> simp
@[simp] theorem busWriteByte_pipeD (s : State) (a : Word) (b : Byte) : (s.busWriteByte a b).pipeD = s.pipeD := by
  unfold busWriteByte; split <;> (try split) <;> (try rfl) <;> simp
@[simp] theorem busWriteByte_pipeF (s : State) (a : Word) (b : Byte) : (s.busWriteByte a b).pipeF = s.pipeF := by
  unfold busWriteByte; split <;> (try split) <;> (try rfl) <;> simp
@[simp] theorem busWriteByte_pipeValid (s : State) (a : Word) (b : Byte) : (s.busWriteByte a b).pipeValid = s.pipeValid := by
  unfold busWriteByte; split <;> (try split) <;> (try rfl) <;> simp
@[simp] theorem busWriteByte_vblankPulse (s : State) (a : Word) (b : Byte) : (s.busWriteByte a b).vblankPulse = s.vblankPulse := by
  unfold busWriteByte; split <;> (try split) <;> (try rfl) <;> simp
@[simp] theorem busWriteByte_hblankPulse (s : State) (a : Word) (b : Byte) : (s.busWriteByte a b).hblankPulse = s.hblankPulse := by
  unfold busWriteByte; split <;> (try split) <;> (try rfl) <;> simp
@[simp] theorem busWriteByte_keyState (s : State) (a : Word) (b : Byte) : (s.busWriteByte a b).keyState = s.keyState := by
  unfold busWriteByte; split <;> (try split) <;> (try rfl) <;> simp
@[simp] theorem busWriteByte_keyInput (s : State) (a : Word) (b : Byte) : (s.busWriteByte a b).keyInput = s.keyInput := by
  unfold busWriteByte; split <;> (try split) <;> (try rfl) <;> simp
@[simp] theorem busWriteByte_params (s : State) (a : Word) (b : Byte) : (s.busWriteByte a b).params = s.params := by
  unfold busWriteByte; split <;> (try split) <;> (try rfl) <;> simp
@[simp] theorem busWriteByte_pixels (s : State) (a : Word) (b : Byte) : (s.busWriteByte a b).pixels = s.pixels := by
  unfold busWriteByte; split <;> (try split) <;> (try rfl) <;> simp
@[simp] theorem writeBytes_gpr (k : Nat) : ∀ (s : State) (a v : Word), (s.writeBytes a v k).gpr = s.gpr := by
  induction k with
  | zero => exact fun _ _ _ => rfl
  | succ k ih => exact fun s a v => (ih _ _ _).trans (busWriteByte_gpr s a _)
@[simp] theorem writeBytes_r15 (k : Nat) : ∀ (s : State) (a v : Word), (s.writeBytes a v k).r15 = s.r15 := by
  induction k with
  | zero => exact fun _ _ _ => rfl
  | succ k ih => exact fun s a v => (ih _ _ _).trans (busWriteByte_r15 s a _)
@[simp] theorem writeBytes_pcWrite (k : Nat) : ∀ (s : State) (a v : Word), (s.writeBytes a v k).pcWrite = s.pcWrite := by
  induction k with
  | zero => exact fun _ _ _ => rfl
  | succ k ih => exact fun s a v => (ih _ _ _).trans (busWriteByte_pcWrite s a _)
@[simp] theorem writeBytes_cpsr (k : Nat) : ∀ (s : State) (a v : Word), (s.writeBytes a v k).cpsr = s.cpsr := by
  induction k with
  | zero => exact fun _ _ _ => rfl
  | succ k ih => exact fun s a v => (ih _ _ _).trans (busWriteByte_cpsr s a _)
@[simp] theorem writeBytes_spsrFiq (k : Nat) : ∀ (s : State) (a v : Word), (s.writeBytes a v k).spsrFiq = s.spsrFiq := by
  induction k with
  | zero => exact fun _ _ _ => rfl
  | succ k ih => exact fun s a v => (ih _ _ _).trans (busWriteByte_spsrFiq s a _)
@[simp] theorem writeBytes_spsrIrq (k : Nat) : ∀ (s : State) (a v : Word), (s.writeBytes a v k).spsrIrq = s.spsrIrq := by
  induction k with
  | zero => exact fun _ _ _ => rfl
  | succ k ih => exact fun s a v => (ih _ _ _).trans (busWriteByte_spsrIrq s a _)
@[simp] theorem writeBytes_spsrSvc (k : Nat) : ∀ (s : State) (a v : Word), (s.writeBytes a v k).spsrSvc = s.spsrSvc := by
  induction k with
  | zero => exact fun _ _ _ => rfl
  | succ k ih => exact fun s a v => (ih _ _ _).trans (busWriteByte_spsrSvc s a _)
@[simp] theorem writeBytes_spsrAbt (k : Nat) : ∀ (s : State) (a v : Word), (s.writeBytes a v k).spsrAbt = s.spsrAbt := by
  induction k with
  | zero => exact fun _ _ _ => rfl
  | succ k ih => exact fun s a v => (ih _ _ _).trans (busWriteByte_spsrAbt s a _)
@[simp] theorem writeBytes_spsrUnd (k : Nat) : ∀ (s : State) (a v : Word), (s.writeBytes a v k).spsrUnd = s.spsrUnd := by
  induction k with
  | zero => exact fun _ _ _ => rfl
  | succ k ih => exact fun s a v => (ih _ _ _).trans (busWriteByte_spsrUnd s a _)
@[simp] theorem writeBytes_pipeE (k : Nat) : ∀ (s : State) (a v : Word), (s.writeBytes a v k).pipeE = s.pipeE := by
  induction k with
  | zero => exact fun _ _ _ => rfl
  | succ k ih => exact fun s a v => (ih _ _ _).trans (busWriteByte_pipeE s a _)
@[simp] theorem writeBytes_pipeD (k : Nat) : ∀ (s : State) (a v : Word), (s.writeBytes a v k).pipeD = s.pipeD := by
  induction k with
  | zero => exact fun _ _ _ => rfl
  | succ k ih => exact fun s a v => (ih _ _ _).trans (busWriteByte_pipeD s a _)
@[simp] theorem writeBytes_pipeF (k : Nat) : ∀ (s : State) (a v : Word), (s.writeBytes a v k).pipeF = s.pipeF := by
  induction k with
  | zero => exact fun _ _ _ => rfl
  | succ k ih => exact fun s a v => (ih _ _ _).trans (busWriteByte_pipeF s a _)
@[simp] theorem writeBytes_pipeValid (k : Nat) : ∀ (s : State) (a v : Word), (s.writeBytes a v k).pipeValid = s.pipeValid := by
  induction k with
  | zero => exact fun _ _ _ => rfl
  | succ k ih => exact fun s a v => (ih _ _ _).trans (busWriteByte_pipeValid s a _)
@[simp] theorem writeBytes_vblankPulse (k : Nat) : ∀ (s : State) (a v : Word), (s.writeBytes a v k).vblankPulse = s.vblankPulse := by
  induction k with
  | zero => exact fun _ _ _ => rfl
  | succ k ih => exact fun s a v => (ih _ _ _).trans (busWriteByte_vblankPulse s a _)
@[simp] theorem writeBytes_hblankPulse (k : Nat) : ∀ (s : State) (a v : Word), (s.writeBytes a v k).hblankPulse = s.hblankPulse := by
  induction k with
  | zero => exact fun _ _ _ => rfl
  | succ k ih => exact fun s a v => (ih _ _ _).trans (busWriteByte_hblankPulse s a _)
@[simp] theorem writeBytes_keyState (k : Nat) : ∀ (s : State) (a v : Word), (s.writeBytes a v k).keyState = s.keyState := by
  induction k with
  | zero => exact fun _ _ _ => rfl
  | succ k ih => exact fun s a v => (ih _ _ _).trans (busWriteByte_keyState s a _)
@[simp] theorem writeBytes_keyInput (k : Nat) : ∀ (s : State) (a v : Word), (s.writeBytes a v k).keyInput = s.keyInput := by
  induction k with
  | zero => exact fun _ _ _ => rfl
  | succ k ih => exact fun s a v => (ih _ _ _).trans (busWriteByte_keyInput s a _)
@[simp] theorem writeBytes_params (k : Nat) : ∀ (s : State) (a v : Word), (s.writeBytes a v k).params = s.params := by
  induction k with
  | zero => exact fun _ _ _ => rfl
  | succ k ih => exact fun s a v => (ih _ _ _).trans (busWriteByte_params s a _)
@[simp] theorem writeBytes_pixels (k : Nat) : ∀ (s : State) (a v : Word), (s.writeBytes a v k).pixels = s.pixels := by
  induction k with
  | zero => exact fun _ _ _ => rfl
  | succ k ih => exact fun s a v => (ih _ _ _).trans (busWriteByte_pixels s a _)
@[simp] theorem memWrite_gpr (s : State) (a : Word) (n : Nat) (v : Word) : (s.memWrite a n v).gpr = s.gpr := by
  unfold memWrite busWrite; simp only [writeBytes_gpr]; (repeat' split) <;> rfl
@[simp] theorem memWrite_r15 (s : State) (a : Word) (n : Nat) (v : Word) : (s.memWrite a n v).r15 = s.r15 := by
  unfold memWrite busWrite; simp only [writeBytes_r15]; (repeat' split) <;> rfl
@[simp] theorem memWrite_pcWrite (s : State) (a : Word) (n : Nat) (v : Word) : (s.memWrite a n v).pcWrite = s.pcWrite := by
  unfold memWrite busWrite; simp only [writeBytes_pcWrite]; (repeat' split) <;> rfl
@[simp] theorem memWrite_cpsr (s : State) (a : Word) (n : Nat) (v : Word) : (s.memWrite a n v).cpsr = s.cpsr := by
  unfold memWrite busWrite; simp only [writeBytes_cpsr]; (repeat' split) <;> rfl
@[simp] theorem memWrite_spsrFiq (s : State) (a : Word) (n : Nat) (v : Word) : (s.memWrite a n v).spsrFiq = s.spsrFiq := by
  unfold memWrite busWrite; simp only [writeBytes_spsrFiq]; (repeat' split) <;> rfl
@[simp] theorem memWrite_spsrIrq (s : State) (a : Word) (n : Nat) (v : Word) : (s.memWrite a n v).spsrIrq = s.spsrIrq := by
  unfold memWrite busWrite; simp only [writeBytes_spsrIrq]; (repeat' split) <;> rfl
@[simp] theorem memWrite_spsrSvc (s : State) (a : Word) (n : Nat) (v : Word) : (s.memWrite a n v).spsrSvc = s.spsrSvc := by
  unfold memWrite busWrite; simp only [writeBytes_spsrSvc]; (repeat' split) <;> rfl
@[simp] theorem memWrite_spsrAbt (s : State) (a : Word) (n : Nat) (v : Word) : (s.memWrite a n v).spsrAbt = s.spsrAbt := by
  unfold memWrite busWrite; simp only [writeBytes_spsrAbt]; (repeat' split) <;> rfl
@[simp] theorem memWrite_spsrUnd (s : State) (a : Word) (n : Nat) (v : Word) : (s.memWrite a n v).spsrUnd = s.spsrUnd := by
  unfold memWrite busWrite; simp only [writeBytes_spsrUnd]; (repeat' split) <;> rfl
@[simp] theorem memWrite_pipeE (s : State) (a : Word) (n : Nat) (v : Word) : (s.memWrite a n v).pipeE = s.pipeE := by
  unfold memWrite busWrite; simp only [writeBytes_pipeE]; (repeat' split) <;> rfl
@[simp] theorem memWrite_pipeD (s : State) (a : Word) (n : Nat) (v : Word) : (s.memWrite a n v).pipeD = s.pipeD := by
  unfold memWrite busWrite; simp only [writeBytes_pipeD]; (repeat' split) <;> rfl
@[simp] theorem memWrite_pipeF (s : State) (a : Word) (n : Nat) (v : Word) : (s.memWrite a n v).pipeF = s.pipeF := by
  unfold memWrite busWrite; simp only [writeBytes_pipeF]; (repeat' split) <;> rfl
@[simp] theorem memWrite_pipeValid (s : State) (a : Word) (n : Nat) (v : Word) : (s.memWrite a n v).pipeValid = s.pipeValid := by
  unfold memWrite busWrite; simp only [writeBytes_pipeValid]; (repeat' split) <;> rfl
@[simp] theorem memWrite_vblankPulse (s : State) (a : Word) (n : Nat) (v : Word) : (s.memWrite a n v).vblankPulse = s.vblankPulse := by
  unfold memWrite busWrite; simp only [writeBytes_vblankPulse]; (repeat' split) <;> rfl
@[simp] theorem memWrite_hblankPulse (s : State) (a : Word) (n : Nat) (v : Word) : (s.memWrite a n v).hblankPulse = s.hblankPulse := by
  unfold memWrite busWrite; simp only [writeBytes_hblankPulse]; (repeat' split) <;> rfl
@[simp] theorem memWrite_keyState (s : State) (a : Word) (n : Nat) (v : Word) : (s.memWrite a n v).keyState = s.keyState := by
  unfold memWrite busWrite; simp only [writeBytes_keyState]; (repeat' split) <;> rfl
@[simp] theorem memWrite_keyInput (s : State) (a : Word) (n : Nat) (v : Word) : (s.memWrite a n v).keyInput = s.keyInput := by
  unfold memWrite busWrite; simp only [writeBytes_keyInput]; (repeat' split) <;> rfl
@[simp] theorem memWrite_params (s : State) (a : Word) (n : Nat) (v : Word) : (s.memWrite a n v).params = s.params := by
  unfold memWrite busWrite; simp only [writeBytes_params]; (repeat' split) <;> rfl
@[simp] theorem memWrite_pixels (s : State) (a : Word) (n : Nat) (v : Word) : (s.memWrite a n v).pixels = s.pixels := by
  unfold memWrite busWrite; simp only [writeBytes_pixels]; (repeat' split) <;> rfl

/-- A byte write reaches memory at the canonical address of a RAM byte, and nowhere else (R69). -/
theorem busWriteByte_mem (s : State) (a : Word) (b : Byte) :
    (s.busWriteByte a b).mem = match (region a).ramKey with | some k => Memory.write s.mem k b | none => s.mem := by
  unfold busWriteByte
  generalize region a = r
  cases r <;> simp only [Region.ramKey] <;> (try split) <;> first | rfl | simp

/-- Every bus write keeps the canonical form of memory. -/
theorem busWriteByte_wf {s : State} (a : Word) (b : Byte) (h : Memory.wf s.mem = true) :
    Memory.wf (s.busWriteByte a b).mem = true := by
  rw [busWriteByte_mem]; split
  · exact Memory.wf_write _ _ h
  · exact h

theorem writeBytes_wf (k : Nat) : ∀ {s : State} (a v : Word), Memory.wf s.mem = true → Memory.wf (s.writeBytes a v k).mem = true := by
  induction k with
  | zero => exact fun _ _ h => h
  | succ k ih => exact fun a v h => ih _ _ (busWriteByte_wf a _ h)

theorem memWrite_wf {s : State} (a : Word) (n : Nat) (v : Word) (h : Memory.wf s.mem = true) :
    Memory.wf (s.memWrite a n v).mem = true := by
  unfold memWrite busWrite
  apply writeBytes_wf
  (repeat' split) <;> exact h

end State

/-! ## Places of memory -/

/-- The canonical address in the memory list of a byte of storage, images included. -/
def memKey (a : Word) : Option Nat :=
  match region a with
  | .bios o => some o
  | .rom o => some (romKey o)
  | .ewram o => some (0x02000000 + o)
  | .iwram o => some (0x03000000 + o)
  | .palette o => some (0x05000000 + o)
  | .vram o => some (0x06000000 + o)
  | .oam o => some (0x07000000 + o)
  | .io _ | .save _ | .unmapped => none

/-- The size of a region: an offset in it is below this. -/
def Region.inBounds : Region → Prop
  | .bios o => o < 0x4000
  | .ewram o => o < 0x40000
  | .iwram o => o < 0x8000
  | .io o => o < 0x400
  | .palette o => o < 0x400
  | .vram o => o < 0x18000
  | .oam o => o < 0x400
  | .rom o => o < 0x2000000
  | .save o => o < 0x10000
  | .unmapped => True

theorem region_inBounds (a : Word) : (region a).inBounds := by
  unfold region
  simp only
  split <;> (try split) <;> simp only [Region.inBounds] <;> omega

/-- Two places of storage with one canonical address are one place. -/
theorem memKey_ne {a b : Word} {k : Nat} (hb : (region b).ramKey = some k) (hr : region a ≠ region b) : memKey a ≠ some k := by
  have ha := region_inBounds a
  have hb' := region_inBounds b
  unfold memKey
  generalize region a = ra at *
  generalize region b = rb at *
  intro h
  cases ra <;> cases rb <;> simp only [Region.ramKey, Region.inBounds, romKey, Option.some.injEq, reduceCtorEq] at * <;>
    first | omega | (apply hr; congr 1; omega)

namespace State

/-- RAM is neither an I/O register nor the save device. -/
theorem isRam_ne {a : Word} (h : isRam a = true) : (∀ o, region a ≠ .io o) ∧ (∀ o, region a ≠ .save o) := by
  constructor <;> intro o e <;> simp [isRam, e, Region.ramKey] at h

/-- RAM is storage. -/
theorem isMemory_of_isRam {a : Word} (h : isRam a = true) : isMemory a = true := by
  have := isRam_ne h
  unfold isMemory
  split <;> simp_all

theorem busReadByte_of_key {s t : State} (hp : t.params = s.params) {a : Word} (ha : isMemory a = true)
    (hm : ∀ k, memKey a = some k → Memory.read t.mem k = Memory.read s.mem k) :
    (t.busReadByte a).1 = (s.busReadByte a).1 := by
  unfold isMemory at ha
  unfold memKey at hm
  unfold busReadByte
  split at ha <;> simp_all

/-- A byte write leaves every other place of storage alone. -/
theorem busWriteByte_other {s : State} {a b : Word} {v : Byte} (ha : isMemory a = true) (hr : region a ≠ region b) :
    ((s.busWriteByte b v).busReadByte a).1 = (s.busReadByte a).1 := by
  apply busReadByte_of_key (by simp) ha
  intro k hk
  rw [busWriteByte_mem]
  split
  · next kb hkb => exact Memory.read_write_other fun e => memKey_ne hkb hr (by rw [hk, e])
  · rfl

/-- A RAM byte reads back what was written to it. -/
theorem busWriteByte_same {s : State} {a : Word} {v : Byte} (hm : Memory.wf s.mem = true) (ha : isRam a = true) :
    ((s.busWriteByte a v).busReadByte a).1 = v := by
  unfold isRam at ha
  unfold busWriteByte busReadByte
  generalize region a = r at *
  cases r <;> simp only [Region.ramKey, Option.isSome, Bool.false_eq_true] at ha ⊢ <;>
    exact Memory.read_write_same hm

theorem writeBytes_other (k : Nat) : ∀ {s : State} {a ea : Word} {v : Word}, isMemory a = true →
    (∀ j < k, region a ≠ region (ea + BitVec.ofNat 32 j)) →
    ((s.writeBytes ea v k).busReadByte a).1 = (s.busReadByte a).1 := by
  induction k with
  | zero => exact fun _ _ => rfl
  | succ k ih =>
    intro s a ea v ha hr
    have h0 : region a ≠ region ea := by simpa using hr 0 (by omega)
    refine (ih ha fun j hj => ?_).trans (busWriteByte_other ha h0)
    have := hr (j + 1) (by omega)
    rwa [show ea + BitVec.ofNat 32 (j + 1) = ea + 1 + BitVec.ofNat 32 j by
      rw [BitVec.add_assoc, BitVec.ofNat_add, BitVec.add_comm (BitVec.ofNat 32 j)]; rfl] at this

/-- A bus write leaves every byte of storage outside the written bytes alone. -/
theorem memWrite_other (s : State) (ea : Word) (n : Nat) (v : Word) : SameMemoryBut s (s.memWrite ea n v) (alignTo ea n) n := by
  intro a ha hr
  unfold memWrite busWrite
  refine (writeBytes_other n ha hr).trans (busReadByte_congr ?_ ?_ ha) <;> (repeat' split) <;> rfl

/-- A byte write that reaches no I/O register leaves the devices alone. -/
theorem busWriteByte_noIo {s : State} {a : Word} (v : Byte) (h : ∀ o, region a ≠ .io o) : SameDevices s (s.busWriteByte a v) := by
  unfold busWriteByte
  split
  · next o e => exact absurd e (h o)
  · split <;> (constructor <;> rfl)
  all_goals (constructor <;> rfl)

theorem writeBytes_noIo (k : Nat) : ∀ {s : State} {a : Word} (v : Word), (∀ j < k, ∀ o, region (a + BitVec.ofNat 32 j) ≠ .io o) →
    SameDevices s (s.writeBytes a v k) := by
  induction k with
  | zero => exact fun _ _ => by constructor <;> rfl
  | succ k ih =>
    intro s a v h
    have h0 : ∀ o, region a ≠ .io o := by simpa using h 0 (by omega)
    refine (busWriteByte_noIo (v.extractLsb' 0 8) h0).trans (ih _ fun j hj o => ?_)
    have := h (j + 1) (by omega) o
    rwa [show a + BitVec.ofNat 32 (j + 1) = a + 1 + BitVec.ofNat 32 j by
      rw [BitVec.add_assoc, BitVec.ofNat_add, BitVec.add_comm (BitVec.ofNat 32 j)]; rfl] at this

/-- A bus write that reaches no I/O register leaves the devices alone. -/
theorem memWrite_noIo {s : State} {a : Word} {n : Nat} (v : Word) (h : ∀ j < n, ∀ o, region (alignTo a n + BitVec.ofNat 32 j) ≠ .io o) :
    SameDevices s (s.memWrite a n v) := by
  unfold memWrite busWrite
  refine SameDevices.trans ?_ (writeBytes_noIo n v h)
  constructor <;> ((repeat' split) <;> rfl)

/-- Two names of one RAM byte agree modulo the smallest region (R62, R69). -/
theorem region_ram_mod {a b : Word} (ha : isRam a = true) (e : region a = region b) : a.toNat % 0x400 = b.toNat % 0x400 := by
  have key : ∀ c : Word, ∀ k, (region c).ramKey = some k → k % 0x400 = c.toNat % 0x400 := by
    intro c k
    have hc := c.isLt
    unfold region
    simp only
    split <;> (try split) <;> simp only [Region.ramKey, Option.some.injEq, reduceCtorEq, false_implies] <;> omega
  unfold isRam at ha
  obtain ⟨k, hk⟩ := Option.isSome_iff_exists.1 ha
  rw [← key a k hk, ← key b k (e ▸ hk)]

theorem toNat_add_mod (a : Word) (j : Nat) : (a + BitVec.ofNat 32 j).toNat % 0x400 = (a.toNat + j) % 0x400 := by
  rw [BitVec.toNat_add, BitVec.toNat_ofNat]; omega

theorem add_ofNat_succ (a : Word) (j : Nat) : a + BitVec.ofNat 32 (j + 1) = a + 1 + BitVec.ofNat 32 j := by
  rw [BitVec.add_assoc, BitVec.ofNat_add, BitVec.add_comm (BitVec.ofNat 32 j)]; rfl

/-- RAM holds the bytes just written. -/
theorem writeBytes_same (k : Nat) : ∀ {s : State} {ea v : Word}, Memory.wf s.mem = true → k ≤ 0x400 →
    (∀ j < k, isRam (ea + BitVec.ofNat 32 j) = true) → HoldsBytes (s.writeBytes ea v k) ea k v := by
  induction k with
  | zero => exact fun _ _ _ j hj => absurd hj (by omega)
  | succ k ih =>
    intro s ea v hm hk hr j hj
    have h0 : isRam ea = true := by simpa using hr 0 (by omega)
    cases j with
    | zero =>
      show ((State.writeBytes _ _ _ k).busReadByte _).1 = _
      rw [BitVec.ofNat_eq_ofNat, BitVec.add_zero, writeBytes_other k (isMemory_of_isRam h0) ?_, busWriteByte_same hm h0]
      intro j hj e
      have h1 := region_ram_mod h0 (e.trans (congrArg region (add_ofNat_succ ea j).symm))
      rw [toNat_add_mod] at h1
      omega
    | succ j =>
      show ((State.writeBytes _ _ _ k).busReadByte _).1 = _
      rw [add_ofNat_succ, ih (busWriteByte_wf _ _ hm) (by omega) (fun i hi => ?_) j (by omega)]
      · apply BitVec.eq_of_getLsbD_eq
        intro i hi
        simp only [BitVec.getLsbD_extractLsb', BitVec.getLsbD_ushiftRight, hi, decide_true, Bool.true_and]
        congr 1; omega
      · have := hr (i + 1) (by omega)
        rwa [add_ofNat_succ] at this

/-- RAM holds the bytes of a bus write. -/
theorem memWrite_same {s : State} {a : Word} {n : Nat} (v : Word) (hm : Memory.wf s.mem = true) (hn : n ≤ 4)
    (hr : ∀ j < n, isRam (alignTo a n + BitVec.ofNat 32 j) = true) : HoldsBytes (s.memWrite a n v) (alignTo a n) n v := by
  unfold memWrite busWrite
  refine writeBytes_same n ?_ (by omega) hr
  (repeat' split) <;> exact hm

end State
end Sys2Proof.Machine
end

