-- ==== Sys2Proof/Laws/Pipeline.lean ====
section
/-! SUPPORT. What the pipeline does: fields after a fetch, a refill and an advance, and the end of an executing step. -/

namespace Sys2Proof.Machine
namespace State

theorem advance_frame (s : State) : ∃ h d f, s.advance =
    { s with save := h, diags := d, r15 := s.r15 + s.iszWord, pipeE := s.pipeD, pipeD := s.pipeF, pipeF := f } := by
  obtain ⟨h, d, e⟩ := memRead_frame s (s.r15 + s.iszWord) s.isz
  refine ⟨h, d, (s.memRead (s.r15 + s.iszWord) s.isz).1, ?_⟩
  unfold advance fetch
  simp only [e]

@[simp] theorem advance_gpr (s : State) : s.advance.gpr = s.gpr := by
  obtain ⟨h, d, f, e⟩ := advance_frame s; rw [e]
@[simp] theorem advance_r15 (s : State) : s.advance.r15 = s.r15 + s.iszWord := by
  obtain ⟨h, d, f, e⟩ := advance_frame s; rw [e]
@[simp] theorem advance_pcWrite (s : State) : s.advance.pcWrite = s.pcWrite := by
  obtain ⟨h, d, f, e⟩ := advance_frame s; rw [e]
@[simp] theorem advance_cpsr (s : State) : s.advance.cpsr = s.cpsr := by
  obtain ⟨h, d, f, e⟩ := advance_frame s; rw [e]
@[simp] theorem advance_spsrFiq (s : State) : s.advance.spsrFiq = s.spsrFiq := by
  obtain ⟨h, d, f, e⟩ := advance_frame s; rw [e]
@[simp] theorem advance_spsrIrq (s : State) : s.advance.spsrIrq = s.spsrIrq := by
  obtain ⟨h, d, f, e⟩ := advance_frame s; rw [e]
@[simp] theorem advance_spsrSvc (s : State) : s.advance.spsrSvc = s.spsrSvc := by
  obtain ⟨h, d, f, e⟩ := advance_frame s; rw [e]
@[simp] theorem advance_spsrAbt (s : State) : s.advance.spsrAbt = s.spsrAbt := by
  obtain ⟨h, d, f, e⟩ := advance_frame s; rw [e]
@[simp] theorem advance_spsrUnd (s : State) : s.advance.spsrUnd = s.spsrUnd := by
  obtain ⟨h, d, f, e⟩ := advance_frame s; rw [e]
@[simp] theorem advance_pipeE (s : State) : s.advance.pipeE = s.pipeD := by
  obtain ⟨h, d, f, e⟩ := advance_frame s; rw [e]
@[simp] theorem advance_pipeD (s : State) : s.advance.pipeD = s.pipeF := by
  obtain ⟨h, d, f, e⟩ := advance_frame s; rw [e]
@[simp] theorem advance_pipeValid (s : State) : s.advance.pipeValid = s.pipeValid := by
  obtain ⟨h, d, f, e⟩ := advance_frame s; rw [e]
@[simp] theorem advance_halted (s : State) : s.advance.halted = s.halted := by
  obtain ⟨h, d, f, e⟩ := advance_frame s; rw [e]
@[simp] theorem advance_ie (s : State) : s.advance.ie = s.ie := by
  obtain ⟨h, d, f, e⟩ := advance_frame s; rw [e]
@[simp] theorem advance_iflag (s : State) : s.advance.iflag = s.iflag := by
  obtain ⟨h, d, f, e⟩ := advance_frame s; rw [e]
@[simp] theorem advance_ime (s : State) : s.advance.ime = s.ime := by
  obtain ⟨h, d, f, e⟩ := advance_frame s; rw [e]
@[simp] theorem advance_dma (s : State) : s.advance.dma = s.dma := by
  obtain ⟨h, d, f, e⟩ := advance_frame s; rw [e]
@[simp] theorem advance_vblankPulse (s : State) : s.advance.vblankPulse = s.vblankPulse := by
  obtain ⟨h, d, f, e⟩ := advance_frame s; rw [e]
@[simp] theorem advance_hblankPulse (s : State) : s.advance.hblankPulse = s.hblankPulse := by
  obtain ⟨h, d, f, e⟩ := advance_frame s; rw [e]
@[simp] theorem advance_timers (s : State) : s.advance.timers = s.timers := by
  obtain ⟨h, d, f, e⟩ := advance_frame s; rw [e]
@[simp] theorem advance_lcd (s : State) : s.advance.lcd = s.lcd := by
  obtain ⟨h, d, f, e⟩ := advance_frame s; rw [e]
@[simp] theorem advance_keycnt (s : State) : s.advance.keycnt = s.keycnt := by
  obtain ⟨h, d, f, e⟩ := advance_frame s; rw [e]
@[simp] theorem advance_keyState (s : State) : s.advance.keyState = s.keyState := by
  obtain ⟨h, d, f, e⟩ := advance_frame s; rw [e]
@[simp] theorem advance_keyInput (s : State) : s.advance.keyInput = s.keyInput := by
  obtain ⟨h, d, f, e⟩ := advance_frame s; rw [e]
@[simp] theorem advance_mem (s : State) : s.advance.mem = s.mem := by
  obtain ⟨h, d, f, e⟩ := advance_frame s; rw [e]
@[simp] theorem advance_params (s : State) : s.advance.params = s.params := by
  obtain ⟨h, d, f, e⟩ := advance_frame s; rw [e]
@[simp] theorem advance_pixels (s : State) : s.advance.pixels = s.pixels := by
  obtain ⟨h, d, f, e⟩ := advance_frame s; rw [e]

/-- The last slot after an advance is what memory holds at the new R15 (R152). -/
theorem advance_pipeF (s : State) : s.advance.pipeF = (s.memRead (s.r15 + s.iszWord) s.isz).1 := rfl

theorem refill_frame (s : State) : ∃ h d f0 f1 f2, s.refill =
    { s with save := h, diags := d, r15 := s.r15 + 2 * s.iszWord, pipeE := f0, pipeD := f1, pipeF := f2, pipeValid := true } := by
  refine ⟨s.refill.save, s.refill.diags, s.refill.pipeE, s.refill.pipeD, s.refill.pipeF, ?_⟩
  simp [refill, fetch]

@[simp] theorem refill_gpr (s : State) : s.refill.gpr = s.gpr := by
  obtain ⟨h, d, f0, f1, f2, e⟩ := refill_frame s; rw [e]
@[simp] theorem refill_r15 (s : State) : s.refill.r15 = s.r15 + 2 * s.iszWord := by
  obtain ⟨h, d, f0, f1, f2, e⟩ := refill_frame s; rw [e]
@[simp] theorem refill_pcWrite (s : State) : s.refill.pcWrite = s.pcWrite := by
  obtain ⟨h, d, f0, f1, f2, e⟩ := refill_frame s; rw [e]
@[simp] theorem refill_cpsr (s : State) : s.refill.cpsr = s.cpsr := by
  obtain ⟨h, d, f0, f1, f2, e⟩ := refill_frame s; rw [e]
@[simp] theorem refill_spsrFiq (s : State) : s.refill.spsrFiq = s.spsrFiq := by
  obtain ⟨h, d, f0, f1, f2, e⟩ := refill_frame s; rw [e]
@[simp] theorem refill_spsrIrq (s : State) : s.refill.spsrIrq = s.spsrIrq := by
  obtain ⟨h, d, f0, f1, f2, e⟩ := refill_frame s; rw [e]
@[simp] theorem refill_spsrSvc (s : State) : s.refill.spsrSvc = s.spsrSvc := by
  obtain ⟨h, d, f0, f1, f2, e⟩ := refill_frame s; rw [e]
@[simp] theorem refill_spsrAbt (s : State) : s.refill.spsrAbt = s.spsrAbt := by
  obtain ⟨h, d, f0, f1, f2, e⟩ := refill_frame s; rw [e]
@[simp] theorem refill_spsrUnd (s : State) : s.refill.spsrUnd = s.spsrUnd := by
  obtain ⟨h, d, f0, f1, f2, e⟩ := refill_frame s; rw [e]
@[simp] theorem refill_pipeValid (s : State) : s.refill.pipeValid = true := by
  obtain ⟨h, d, f0, f1, f2, e⟩ := refill_frame s; rw [e]
@[simp] theorem refill_halted (s : State) : s.refill.halted = s.halted := by
  obtain ⟨h, d, f0, f1, f2, e⟩ := refill_frame s; rw [e]
@[simp] theorem refill_ie (s : State) : s.refill.ie = s.ie := by
  obtain ⟨h, d, f0, f1, f2, e⟩ := refill_frame s; rw [e]
@[simp] theorem refill_iflag (s : State) : s.refill.iflag = s.iflag := by
  obtain ⟨h, d, f0, f1, f2, e⟩ := refill_frame s; rw [e]
@[simp] theorem refill_ime (s : State) : s.refill.ime = s.ime := by
  obtain ⟨h, d, f0, f1, f2, e⟩ := refill_frame s; rw [e]
@[simp] theorem refill_dma (s : State) : s.refill.dma = s.dma := by
  obtain ⟨h, d, f0, f1, f2, e⟩ := refill_frame s; rw [e]
@[simp] theorem refill_vblankPulse (s : State) : s.refill.vblankPulse = s.vblankPulse := by
  obtain ⟨h, d, f0, f1, f2, e⟩ := refill_frame s; rw [e]
@[simp] theorem refill_hblankPulse (s : State) : s.refill.hblankPulse = s.hblankPulse := by
  obtain ⟨h, d, f0, f1, f2, e⟩ := refill_frame s; rw [e]
@[simp] theorem refill_timers (s : State) : s.refill.timers = s.timers := by
  obtain ⟨h, d, f0, f1, f2, e⟩ := refill_frame s; rw [e]
@[simp] theorem refill_lcd (s : State) : s.refill.lcd = s.lcd := by
  obtain ⟨h, d, f0, f1, f2, e⟩ := refill_frame s; rw [e]
@[simp] theorem refill_keycnt (s : State) : s.refill.keycnt = s.keycnt := by
  obtain ⟨h, d, f0, f1, f2, e⟩ := refill_frame s; rw [e]
@[simp] theorem refill_keyState (s : State) : s.refill.keyState = s.keyState := by
  obtain ⟨h, d, f0, f1, f2, e⟩ := refill_frame s; rw [e]
@[simp] theorem refill_keyInput (s : State) : s.refill.keyInput = s.keyInput := by
  obtain ⟨h, d, f0, f1, f2, e⟩ := refill_frame s; rw [e]
@[simp] theorem refill_mem (s : State) : s.refill.mem = s.mem := by
  obtain ⟨h, d, f0, f1, f2, e⟩ := refill_frame s; rw [e]
@[simp] theorem refill_params (s : State) : s.refill.params = s.params := by
  obtain ⟨h, d, f0, f1, f2, e⟩ := refill_frame s; rw [e]
@[simp] theorem refill_pixels (s : State) : s.refill.pixels = s.pixels := by
  obtain ⟨h, d, f0, f1, f2, e⟩ := refill_frame s; rw [e]

/-- The instruction to execute after a refill is what memory holds at R15 (R151). -/
theorem refill_pipeE (s : State) : s.refill.pipeE = (s.memRead s.r15 s.isz).1 := rfl

@[simp] theorem readBank_advance (s : State) (b : Bank) {r : Reg} (h : r ≠ 15) : s.advance.readBank b r = s.readBank b r :=
  readBank_congr_of_ne (by simp) b h

@[simp] theorem readReg_advance (s : State) {r : Reg} (h : r ≠ 15) : s.advance.readReg r = s.readReg r := by
  unfold readReg bank; rw [advance_cpsr]; exact readBank_advance s _ h

@[simp] theorem readReg_applyPc (s : State) (v : Word) {r : Reg} (h : r ≠ 15) : (s.applyPc v).readReg r = s.readReg r :=
  readBank_congr_of_ne (by simp) _ h

@[simp] theorem readBank_applyPc (s : State) (v : Word) (b : Bank) {r : Reg} (h : r ≠ 15) :
    (s.applyPc v).readBank b r = s.readBank b r := readBank_congr_of_ne (by simp) b h

/-! ## The end of an executing step (R152 to R154) -/

theorem finish_some {s : State} {oldT : Bool} {v : Word} (h : s.pcWrite = some v) : s.finish oldT = s.applyPc v := by
  simp only [finish, h]

theorem finish_none {s : State} {oldT : Bool} (h : s.pcWrite = none) (ht : s.cpsr.t = oldT) : s.finish oldT = s.advance := by
  simp only [finish, h, ht, if_true]

theorem finish_realign {s : State} {oldT : Bool} (h : s.pcWrite = none) (ht : s.cpsr.t ≠ oldT) :
    s.finish oldT = { s with r15 := alignPc s.cpsr.t s.r15, pipeValid := false } := by
  simp only [finish, h, ht, if_false]

end State

/-- An ARM instruction whose condition passes (R155). -/
theorem execArm_pass {c : Cond} {op : State → State} {s : State} (h : condPassed s.cpsr c = true) :
    execArm c op s = .next ((op (s.begin.noteCond c)).finish s.cpsr.t) := by simp only [execArm, h, if_true]

/-- An ARM instruction whose condition fails (R156). -/
theorem execArm_fail {c : Cond} {op : State → State} {s : State} (h : condPassed s.cpsr c = false) :
    execArm c op s = .next s.begin.advance := by simp only [execArm, h, Bool.false_eq_true, if_false]

/-- An ARM instruction always answers a next state. -/
theorem execArm_next (c : Cond) (op : State → State) (s : State) : ∃ t, execArm c op s = .next t := by
  unfold execArm; split <;> exact ⟨_, rfl⟩

theorem execThumb_next (op : State → State) (s : State) : ∃ t, execThumb op s = .next t := ⟨_, rfl⟩

/-! ## Frames of an advance -/

theorem SameRegs.refl (s : State) (ds : List Reg) : SameRegs s s ds := fun _ _ _ _ => rfl

theorem sameDevices_begin_noteCond (s : State) (c : Cond) : SameDevices s (s.begin.noteCond c) := by constructor <;> simp

theorem SameMemory.of_mem {s t : State} (hm : t.mem = s.mem) (hp : t.params = s.params) : SameMemory s t :=
  fun _ ha => State.busReadByte_congr hm hp ha

end Sys2Proof.Machine
end

