-- ==== Sys2Proof/Laws/Save.lean ====
section
/-! SUPPORT. What each bus operation adds to the save device's history (R68; log 17), and the pipeline's fetches read after it. -/

namespace Sys2Proof.Machine

theorem SaveGrew.refl (s : State) : SaveGrew s s [] := by
  show s.save = _
  cases s.save <;> rfl

theorem SaveGrew.of_eq {s t : State} (h : t.save = s.save) : SaveGrew s t [] := h.trans (SaveGrew.refl s)

theorem SaveGrew.trans {s t u : State} {old new : List Config.SaveEvent} (h : SaveGrew s t old) (g : SaveGrew t u new) :
    SaveGrew s u (new ++ old) := by
  unfold SaveGrew at *
  rw [g, h]
  cases s.save <;> simp

/-- No access at all. -/
theorem State.withSave_nil (s : State) : s.withSave s [] = s := by
  have h : s.save.map ([] ++ ·) = s.save := (SaveGrew.refl s).symm
  unfold State.withSave
  rw [h]

/-- Writes to other fields keep what is known of the history. -/
theorem SaveGrew.congr {s t u : State} {new : List Config.SaveEvent} (h : SaveGrew s t new) (e : u.save = t.save) :
    SaveGrew s u new := e.trans h

namespace State

theorem busReadByte_saveGrew (s : State) (a : Word) : SaveGrew s (s.busReadByte a).2 (saveRead a) := by
  unfold saveRead busReadByte
  cases region a <;> try exact SaveGrew.refl s
  unfold SaveGrew
  cases h : s.save <;> simp [h]

theorem readBytes_saveGrew (n : Nat) : ∀ (s : State) (a : Word), SaveGrew s (s.readBytes a n).2 (saveReads a n) := by
  induction n with
  | zero => exact fun s _ => SaveGrew.refl s
  | succ n ih => exact fun s a => (busReadByte_saveGrew s a).trans (ih _ (a + 1))

/-- What a bus read adds to the history. -/
theorem memRead_saveGrew (s : State) (a : Word) (n : Nat) : SaveGrew s (s.memRead a n).2 (saveReads (alignTo a n) n) := by
  refine (readBytes_saveGrew n s (alignTo a n)).congr ?_
  unfold memRead busRead
  simp only
  split <;> rfl

theorem busWriteByte_saveGrew (s : State) (a : Word) (b : Byte) : SaveGrew s (s.busWriteByte a b) (saveWrite a b) := by
  unfold saveWrite busWriteByte
  cases region a <;> try exact SaveGrew.refl s
  · exact SaveGrew.of_eq (ioWriteByte_save s _ b)
  · unfold SaveGrew
    cases h : s.save <;> simp [h]

theorem writeBytes_saveGrew (n : Nat) : ∀ (s : State) (a v : Word), SaveGrew s (s.writeBytes a v n) (saveWrites a v n) := by
  induction n with
  | zero => exact fun s _ _ => SaveGrew.refl s
  | succ n ih => exact fun s a v => (busWriteByte_saveGrew s a _).trans (ih _ (a + 1) _)

/-- What a bus write adds to the history. -/
theorem memWrite_saveGrew (s : State) (a : Word) (n : Nat) (v : Word) :
    SaveGrew s (s.memWrite a n v) (saveWrites (alignTo a n) v n) := by
  unfold memWrite busWrite
  simp only
  have h : ∀ u : State, u.save = s.save → SaveGrew s (u.writeBytes (alignTo a n) v n) (saveWrites (alignTo a n) v n) := by
    intro u hu
    have := (SaveGrew.of_eq hu).trans (writeBytes_saveGrew n u (alignTo a n) v)
    rwa [List.append_nil] at this
  apply h
  (repeat' split) <;> rfl

theorem BusEq.withSave {s t u : State} {new : List Config.SaveEvent} (h : BusEq u { t with save := u.save })
    (hu : SaveGrew s u new) : BusEq u (t.withSave s new) :=
  ⟨h.mem, h.params, hu.symm, h.dma, h.timers, h.lcd, h.keycnt, h.keys, h.ie, h.iflag, h.ime⟩

/-- The fetch of an advance: the word at the new R15, read after the accesses made before (R152). -/
theorem advance_fetch {s x : State} {data : List Config.SaveEvent} (h : SaveGrew s x data) :
    x.advance.pipeF = ((x.advance.withSave s data).memRead x.advance.r15 x.advance.isz).1 := by
  have e : BusEq x (x.advance.withSave s data) := BusEq.withSave (by constructor <;> simp) h
  have hz : x.advance.isz = x.isz := by simp [isz]
  rw [e.memRead, hz, advance_r15]; rfl

/-- What an advance adds to the history: its fetch. -/
theorem advance_saveGrew (x : State) : SaveGrew x x.advance (saveReads (alignTo x.advance.r15 x.advance.isz) x.advance.isz) := by
  have hz : x.advance.isz = x.isz := by simp [isz]
  rw [hz, advance_r15]
  exact memRead_saveGrew x (x.r15 + x.iszWord) x.isz

/-- A refill reads three words in ascending order (R151). -/
theorem refill_slots (s : State) :
    let a := s.r15
    let b := s.r15 + s.iszWord
    let c := s.r15 + 2 * s.iszWord
    let one := saveReads (alignTo a s.isz) s.isz
    let two := saveReads (alignTo b s.isz) s.isz ++ one
    s.refill.pipeE = (s.memRead a s.isz).1 ∧ s.refill.pipeD = ((s.withSave s one).memRead b s.isz).1 ∧
    s.refill.pipeF = ((s.withSave s two).memRead c s.isz).1 ∧ SaveGrew s s.refill (saveReads (alignTo c s.isz) s.isz ++ two) := by
  intro a b c one two
  have z1 : (s.memRead a s.isz).2.isz = s.isz := by simp [isz]
  have g1 : SaveGrew s (s.memRead a s.isz).2 one := memRead_saveGrew s a s.isz
  have g2 : SaveGrew s ((s.memRead a s.isz).2.memRead b s.isz).2 two := g1.trans (memRead_saveGrew _ b s.isz)
  have z2 : ((s.memRead a s.isz).2.memRead b s.isz).2.isz = s.isz := by simp [isz]
  have e1 : BusEq (s.memRead a s.isz).2 (s.withSave s one) := BusEq.withSave (by constructor <;> simp) g1
  have e2 : BusEq ((s.memRead a s.isz).2.memRead b s.isz).2 (s.withSave s two) := BusEq.withSave (by constructor <;> simp) g2
  refine ⟨rfl, ?_, ?_, ?_⟩
  · rw [e1.memRead]; show ((s.memRead a s.isz).2.memRead b (s.memRead a s.isz).2.isz).1 = _; rw [z1]
  · rw [e2.memRead]
    show (((s.memRead a s.isz).2.memRead b (s.memRead a s.isz).2.isz).2.memRead c
      ((s.memRead a s.isz).2.memRead b (s.memRead a s.isz).2.isz).2.isz).1 = _
    rw [z1, z2]
  · refine (g2.trans (memRead_saveGrew _ c s.isz)).congr ?_
    show (((s.memRead a s.isz).2.memRead b (s.memRead a s.isz).2.isz).2.memRead c
      ((s.memRead a s.isz).2.memRead b (s.memRead a s.isz).2.isz).2.isz).2.save = _
    rw [z1, z2]

end State

end Sys2Proof.Machine
end

