-- ==== Sys2Proof/Laws/Block.lean ====
section
/-! SUPPORT. What the word sequences of the block transfers do: reading words changes nothing but the save history and the
diagnostics; writing words reaches the bus only; loading registers changes the registers only. -/

namespace Sys2Proof.Machine

/-- Alignment to a word, as a number. -/
theorem alignTo_four_toNat (a : Word) : (alignTo a 4).toNat = a.toNat / 4 * 4 := by
  unfold alignTo
  rw [BitVec.toNat_and, show (~~~(BitVec.ofNat 32 (4 - 1))).toNat = 2 ^ 32 - 2 ^ 2 by decide]
  apply Nat.eq_of_testBit_eq
  intro i
  rw [show a.toNat / 4 * 4 = 2 ^ 2 * (a.toNat / 2 ^ 2) by omega, Nat.testBit_two_pow_mul, Nat.testBit_div_two_pow, Nat.testBit_and,
    show (2 : Nat) ^ 32 - 2 ^ 2 = 2 ^ 2 * (2 ^ 30 - 1) by decide, Nat.testBit_two_pow_mul, Nat.testBit_two_pow_sub_one]
  by_cases h : 2 ≤ i
  · by_cases h2 : i < 32
    · simp [h, show i - 2 < 30 by omega, show i - 2 + 2 = i by omega]
    · have : a.toNat.testBit i = false :=
        Nat.testBit_lt_two_pow (Nat.lt_of_lt_of_le a.isLt (Nat.pow_le_pow_right (by decide) (by omega)))
      simp [h, this, show i - 2 + 2 = i by omega]
  · simp [h]

theorem alignTo_add_four (a : Word) : alignTo (a + 4) 4 = alignTo a 4 + 4 := by
  apply BitVec.eq_of_toNat_eq
  have h := a.isLt
  rw [alignTo_four_toNat, BitVec.toNat_add, BitVec.toNat_add, alignTo_four_toNat]
  have e : (4 : Word).toNat = 4 := rfl
  rw [e]
  omega

namespace State

/-- Reading words changes nothing but the save device's history and the diagnostic stream. -/
theorem readWords_frame (n : Nat) : ∀ (s : State) (a : Word), ∃ h d, (s.readWords a n).2 = { s with save := h, diags := d } := by
  induction n with
  | zero => exact fun s _ => ⟨s.save, s.diags, rfl⟩
  | succ n ih =>
    intro s a
    obtain ⟨h1, d1, e1⟩ := memRead_frame s a 4
    obtain ⟨h2, d2, e2⟩ := ih (s.memRead a 4).2 (a + 4)
    exact ⟨h2, d2, e2.trans (by rw [e1])⟩

theorem readWords_length (n : Nat) : ∀ (s : State) (a : Word), (s.readWords a n).1.length = n := by
  induction n with
  | zero => exact fun _ _ => rfl
  | succ n ih => exact fun s a => congrArg (· + 1) (ih (s.memRead a 4).2 (a + 4))

/-- Two states alike in what the bus sees read the same words. -/
theorem BusEq.readWords (n : Nat) : ∀ {s t : State}, BusEq s t → ∀ a, (t.readWords a n).1 = (s.readWords a n).1 := by
  induction n with
  | zero => exact fun _ _ => rfl
  | succ n ih =>
    intro s t h a
    have h2 : BusEq (s.memRead a 4).2 (t.memRead a 4).2 := by
      have h3 := (h.readBytes 4 (alignTo a 4)).2
      unfold State.memRead State.busRead
      simp only
      constructor <;> (split <;> split) <;> first
        | exact h3.mem | exact h3.params | exact h3.save | exact h3.dma | exact h3.timers | exact h3.lcd | exact h3.keycnt
        | exact h3.keys | exact h3.ie | exact h3.iflag | exact h3.ime
    show (t.memRead a 4).1 :: ((t.memRead a 4).2.readWords (a + 4) n).1 = _
    rw [h.memRead a 4, ih h2 (a + 4)]; rfl

@[simp] theorem readWords_gpr (s : State) (a : Word) (n : Nat) : (s.readWords a n).2.gpr = s.gpr := by
  obtain ⟨h, d, e⟩ := readWords_frame n s a; rw [e]
@[simp] theorem readWords_r15 (s : State) (a : Word) (n : Nat) : (s.readWords a n).2.r15 = s.r15 := by
  obtain ⟨h, d, e⟩ := readWords_frame n s a; rw [e]
@[simp] theorem readWords_pcWrite (s : State) (a : Word) (n : Nat) : (s.readWords a n).2.pcWrite = s.pcWrite := by
  obtain ⟨h, d, e⟩ := readWords_frame n s a; rw [e]
@[simp] theorem readWords_cpsr (s : State) (a : Word) (n : Nat) : (s.readWords a n).2.cpsr = s.cpsr := by
  obtain ⟨h, d, e⟩ := readWords_frame n s a; rw [e]
@[simp] theorem readWords_spsrFiq (s : State) (a : Word) (n : Nat) : (s.readWords a n).2.spsrFiq = s.spsrFiq := by
  obtain ⟨h, d, e⟩ := readWords_frame n s a; rw [e]
@[simp] theorem readWords_spsrIrq (s : State) (a : Word) (n : Nat) : (s.readWords a n).2.spsrIrq = s.spsrIrq := by
  obtain ⟨h, d, e⟩ := readWords_frame n s a; rw [e]
@[simp] theorem readWords_spsrSvc (s : State) (a : Word) (n : Nat) : (s.readWords a n).2.spsrSvc = s.spsrSvc := by
  obtain ⟨h, d, e⟩ := readWords_frame n s a; rw [e]
@[simp] theorem readWords_spsrAbt (s : State) (a : Word) (n : Nat) : (s.readWords a n).2.spsrAbt = s.spsrAbt := by
  obtain ⟨h, d, e⟩ := readWords_frame n s a; rw [e]
@[simp] theorem readWords_spsrUnd (s : State) (a : Word) (n : Nat) : (s.readWords a n).2.spsrUnd = s.spsrUnd := by
  obtain ⟨h, d, e⟩ := readWords_frame n s a; rw [e]
@[simp] theorem readWords_pipeE (s : State) (a : Word) (n : Nat) : (s.readWords a n).2.pipeE = s.pipeE := by
  obtain ⟨h, d, e⟩ := readWords_frame n s a; rw [e]
@[simp] theorem readWords_pipeD (s : State) (a : Word) (n : Nat) : (s.readWords a n).2.pipeD = s.pipeD := by
  obtain ⟨h, d, e⟩ := readWords_frame n s a; rw [e]
@[simp] theorem readWords_pipeF (s : State) (a : Word) (n : Nat) : (s.readWords a n).2.pipeF = s.pipeF := by
  obtain ⟨h, d, e⟩ := readWords_frame n s a; rw [e]
@[simp] theorem readWords_pipeValid (s : State) (a : Word) (n : Nat) : (s.readWords a n).2.pipeValid = s.pipeValid := by
  obtain ⟨h, d, e⟩ := readWords_frame n s a; rw [e]
@[simp] theorem readWords_halted (s : State) (a : Word) (n : Nat) : (s.readWords a n).2.halted = s.halted := by
  obtain ⟨h, d, e⟩ := readWords_frame n s a; rw [e]
@[simp] theorem readWords_ie (s : State) (a : Word) (n : Nat) : (s.readWords a n).2.ie = s.ie := by
  obtain ⟨h, d, e⟩ := readWords_frame n s a; rw [e]
@[simp] theorem readWords_iflag (s : State) (a : Word) (n : Nat) : (s.readWords a n).2.iflag = s.iflag := by
  obtain ⟨h, d, e⟩ := readWords_frame n s a; rw [e]
@[simp] theorem readWords_ime (s : State) (a : Word) (n : Nat) : (s.readWords a n).2.ime = s.ime := by
  obtain ⟨h, d, e⟩ := readWords_frame n s a; rw [e]
@[simp] theorem readWords_dma (s : State) (a : Word) (n : Nat) : (s.readWords a n).2.dma = s.dma := by
  obtain ⟨h, d, e⟩ := readWords_frame n s a; rw [e]
@[simp] theorem readWords_vblankPulse (s : State) (a : Word) (n : Nat) : (s.readWords a n).2.vblankPulse = s.vblankPulse := by
  obtain ⟨h, d, e⟩ := readWords_frame n s a; rw [e]
@[simp] theorem readWords_hblankPulse (s : State) (a : Word) (n : Nat) : (s.readWords a n).2.hblankPulse = s.hblankPulse := by
  obtain ⟨h, d, e⟩ := readWords_frame n s a; rw [e]
@[simp] theorem readWords_timers (s : State) (a : Word) (n : Nat) : (s.readWords a n).2.timers = s.timers := by
  obtain ⟨h, d, e⟩ := readWords_frame n s a; rw [e]
@[simp] theorem readWords_lcd (s : State) (a : Word) (n : Nat) : (s.readWords a n).2.lcd = s.lcd := by
  obtain ⟨h, d, e⟩ := readWords_frame n s a; rw [e]
@[simp] theorem readWords_keycnt (s : State) (a : Word) (n : Nat) : (s.readWords a n).2.keycnt = s.keycnt := by
  obtain ⟨h, d, e⟩ := readWords_frame n s a; rw [e]
@[simp] theorem readWords_keyState (s : State) (a : Word) (n : Nat) : (s.readWords a n).2.keyState = s.keyState := by
  obtain ⟨h, d, e⟩ := readWords_frame n s a; rw [e]
@[simp] theorem readWords_keyInput (s : State) (a : Word) (n : Nat) : (s.readWords a n).2.keyInput = s.keyInput := by
  obtain ⟨h, d, e⟩ := readWords_frame n s a; rw [e]
@[simp] theorem readWords_mem (s : State) (a : Word) (n : Nat) : (s.readWords a n).2.mem = s.mem := by
  obtain ⟨h, d, e⟩ := readWords_frame n s a; rw [e]
@[simp] theorem readWords_params (s : State) (a : Word) (n : Nat) : (s.readWords a n).2.params = s.params := by
  obtain ⟨h, d, e⟩ := readWords_frame n s a; rw [e]
@[simp] theorem readWords_pixels (s : State) (a : Word) (n : Nat) : (s.readWords a n).2.pixels = s.pixels := by
  obtain ⟨h, d, e⟩ := readWords_frame n s a; rw [e]

@[simp] theorem writeWords_gpr (vs : List Word) : ∀ (s : State) (a : Word), (s.writeWords a vs).gpr = s.gpr := by
  induction vs with
  | nil => exact fun _ _ => rfl
  | cons v vs ih => exact fun s a => (ih _ _).trans (memWrite_gpr s a 4 v)
@[simp] theorem writeWords_r15 (vs : List Word) : ∀ (s : State) (a : Word), (s.writeWords a vs).r15 = s.r15 := by
  induction vs with
  | nil => exact fun _ _ => rfl
  | cons v vs ih => exact fun s a => (ih _ _).trans (memWrite_r15 s a 4 v)
@[simp] theorem writeWords_pcWrite (vs : List Word) : ∀ (s : State) (a : Word), (s.writeWords a vs).pcWrite = s.pcWrite := by
  induction vs with
  | nil => exact fun _ _ => rfl
  | cons v vs ih => exact fun s a => (ih _ _).trans (memWrite_pcWrite s a 4 v)
@[simp] theorem writeWords_cpsr (vs : List Word) : ∀ (s : State) (a : Word), (s.writeWords a vs).cpsr = s.cpsr := by
  induction vs with
  | nil => exact fun _ _ => rfl
  | cons v vs ih => exact fun s a => (ih _ _).trans (memWrite_cpsr s a 4 v)
@[simp] theorem writeWords_spsrFiq (vs : List Word) : ∀ (s : State) (a : Word), (s.writeWords a vs).spsrFiq = s.spsrFiq := by
  induction vs with
  | nil => exact fun _ _ => rfl
  | cons v vs ih => exact fun s a => (ih _ _).trans (memWrite_spsrFiq s a 4 v)
@[simp] theorem writeWords_spsrIrq (vs : List Word) : ∀ (s : State) (a : Word), (s.writeWords a vs).spsrIrq = s.spsrIrq := by
  induction vs with
  | nil => exact fun _ _ => rfl
  | cons v vs ih => exact fun s a => (ih _ _).trans (memWrite_spsrIrq s a 4 v)
@[simp] theorem writeWords_spsrSvc (vs : List Word) : ∀ (s : State) (a : Word), (s.writeWords a vs).spsrSvc = s.spsrSvc := by
  induction vs with
  | nil => exact fun _ _ => rfl
  | cons v vs ih => exact fun s a => (ih _ _).trans (memWrite_spsrSvc s a 4 v)
@[simp] theorem writeWords_spsrAbt (vs : List Word) : ∀ (s : State) (a : Word), (s.writeWords a vs).spsrAbt = s.spsrAbt := by
  induction vs with
  | nil => exact fun _ _ => rfl
  | cons v vs ih => exact fun s a => (ih _ _).trans (memWrite_spsrAbt s a 4 v)
@[simp] theorem writeWords_spsrUnd (vs : List Word) : ∀ (s : State) (a : Word), (s.writeWords a vs).spsrUnd = s.spsrUnd := by
  induction vs with
  | nil => exact fun _ _ => rfl
  | cons v vs ih => exact fun s a => (ih _ _).trans (memWrite_spsrUnd s a 4 v)
@[simp] theorem writeWords_pipeE (vs : List Word) : ∀ (s : State) (a : Word), (s.writeWords a vs).pipeE = s.pipeE := by
  induction vs with
  | nil => exact fun _ _ => rfl
  | cons v vs ih => exact fun s a => (ih _ _).trans (memWrite_pipeE s a 4 v)
@[simp] theorem writeWords_pipeD (vs : List Word) : ∀ (s : State) (a : Word), (s.writeWords a vs).pipeD = s.pipeD := by
  induction vs with
  | nil => exact fun _ _ => rfl
  | cons v vs ih => exact fun s a => (ih _ _).trans (memWrite_pipeD s a 4 v)
@[simp] theorem writeWords_pipeF (vs : List Word) : ∀ (s : State) (a : Word), (s.writeWords a vs).pipeF = s.pipeF := by
  induction vs with
  | nil => exact fun _ _ => rfl
  | cons v vs ih => exact fun s a => (ih _ _).trans (memWrite_pipeF s a 4 v)
@[simp] theorem writeWords_pipeValid (vs : List Word) : ∀ (s : State) (a : Word), (s.writeWords a vs).pipeValid = s.pipeValid := by
  induction vs with
  | nil => exact fun _ _ => rfl
  | cons v vs ih => exact fun s a => (ih _ _).trans (memWrite_pipeValid s a 4 v)
@[simp] theorem writeWords_vblankPulse (vs : List Word) : ∀ (s : State) (a : Word), (s.writeWords a vs).vblankPulse = s.vblankPulse := by
  induction vs with
  | nil => exact fun _ _ => rfl
  | cons v vs ih => exact fun s a => (ih _ _).trans (memWrite_vblankPulse s a 4 v)
@[simp] theorem writeWords_hblankPulse (vs : List Word) : ∀ (s : State) (a : Word), (s.writeWords a vs).hblankPulse = s.hblankPulse := by
  induction vs with
  | nil => exact fun _ _ => rfl
  | cons v vs ih => exact fun s a => (ih _ _).trans (memWrite_hblankPulse s a 4 v)
@[simp] theorem writeWords_keyState (vs : List Word) : ∀ (s : State) (a : Word), (s.writeWords a vs).keyState = s.keyState := by
  induction vs with
  | nil => exact fun _ _ => rfl
  | cons v vs ih => exact fun s a => (ih _ _).trans (memWrite_keyState s a 4 v)
@[simp] theorem writeWords_keyInput (vs : List Word) : ∀ (s : State) (a : Word), (s.writeWords a vs).keyInput = s.keyInput := by
  induction vs with
  | nil => exact fun _ _ => rfl
  | cons v vs ih => exact fun s a => (ih _ _).trans (memWrite_keyInput s a 4 v)
@[simp] theorem writeWords_params (vs : List Word) : ∀ (s : State) (a : Word), (s.writeWords a vs).params = s.params := by
  induction vs with
  | nil => exact fun _ _ => rfl
  | cons v vs ih => exact fun s a => (ih _ _).trans (memWrite_params s a 4 v)
@[simp] theorem writeWords_pixels (vs : List Word) : ∀ (s : State) (a : Word), (s.writeWords a vs).pixels = s.pixels := by
  induction vs with
  | nil => exact fun _ _ => rfl
  | cons v vs ih => exact fun s a => (ih _ _).trans (memWrite_pixels s a 4 v)

/-- Writing words keeps the canonical form of memory. -/
theorem writeWords_wf (vs : List Word) : ∀ {s : State} (a : Word), Memory.wf s.mem = true → Memory.wf (s.writeWords a vs).mem = true := by
  induction vs with
  | nil => exact fun _ h => h
  | cons v vs ih => exact fun a h => ih _ (memWrite_wf a 4 v h)

/-- Writing words leaves every byte of storage outside them alone. -/
theorem writeWords_other (vs : List Word) : ∀ (s : State) (a : Word),
    SameMemoryBut s (s.writeWords a vs) (alignTo a 4) (4 * vs.length) := by
  induction vs with
  | nil => exact fun _ _ _ _ _ => rfl
  | cons v vs ih =>
    intro s a x hx hr
    have hl : (v :: vs).length = vs.length + 1 := rfl
    refine (ih (s.memWrite a 4 v) (a + 4) x hx fun k hk => ?_).trans (memWrite_other s a 4 v x hx fun k hk => hr k (by omega))
    rw [alignTo_add_four]
    have := hr (k + 4) (by omega)
    rwa [BitVec.ofNat_add, BitVec.add_comm (BitVec.ofNat 32 k), ← BitVec.add_assoc] at this

/-- The history of a read of adjacent bytes. -/
theorem saveReads_add (m n : Nat) : ∀ a : Word,
    saveReads a (m + n) = saveReads (a + BitVec.ofNat 32 m) n ++ saveReads a m := by
  induction m with
  | zero => intro a; simp [saveReads]
  | succ m ih =>
    intro a
    rw [Nat.add_right_comm]
    show saveReads (a + 1) (m + n) ++ saveRead a = _
    rw [ih, add_ofNat_succ, List.append_assoc]; rfl

/-- What reading a block adds to the save device's history. -/
theorem readWords_saveGrew (n : Nat) : ∀ (s : State) (a : Word),
    SaveGrew s (s.readWords a n).2 (saveReads (alignTo a 4) (4 * n)) := by
  induction n with
  | zero => exact fun s _ => SaveGrew.refl s
  | succ n ih =>
    intro s a
    have h := (memRead_saveGrew s a 4).trans (ih (s.memRead a 4).2 (a + 4))
    rw [alignTo_add_four] at h
    rw [show 4 * (n + 1) = 4 + 4 * n by omega, saveReads_add]
    exact h

/-- What writing a block adds to it. -/
theorem writeWords_saveGrew (vs : List Word) : ∀ (s : State) (a : Word),
    SaveGrew s (s.writeWords a vs) (saveWords (alignTo a 4) vs) := by
  induction vs with
  | nil => exact fun s _ => SaveGrew.refl s
  | cons v vs ih =>
    intro s a
    have h := (memWrite_saveGrew s a 4 v).trans (ih (s.memWrite a 4 v) (a + 4))
    rw [alignTo_add_four] at h
    exact h

/-- Writing words that reach no I/O register leaves the devices alone. -/
theorem writeWords_noIo (vs : List Word) : ∀ {s : State} {a : Word},
    (∀ k < 4 * vs.length, ∀ o, region (alignTo a 4 + BitVec.ofNat 32 k) ≠ .io o) → SameDevices s (s.writeWords a vs) := by
  induction vs with
  | nil => exact fun _ => by constructor <;> rfl
  | cons v vs ih =>
    intro s a h
    have hl : (v :: vs).length = vs.length + 1 := rfl
    refine (memWrite_noIo v fun j hj => h j (by omega)).trans (ih fun k hk o => ?_)
    rw [alignTo_add_four]
    have := h (k + 4) (by omega) o
    rwa [BitVec.ofNat_add, BitVec.add_comm (BitVec.ofNat 32 k), ← BitVec.add_assoc] at this

@[simp] theorem writeRegs_r15 (b : Bank) (rs : List Reg) : ∀ (s : State) (vs : List Word), (s.writeRegs b rs vs).r15 = s.r15 := by
  induction rs with
  | nil => exact fun _ _ => rfl
  | cons r rs ih => exact fun s vs => by cases vs with
    | nil => rfl
    | cons v vs => exact (ih _ _).trans (writeBank_r15 s b r v)
@[simp] theorem writeRegs_cpsr (b : Bank) (rs : List Reg) : ∀ (s : State) (vs : List Word), (s.writeRegs b rs vs).cpsr = s.cpsr := by
  induction rs with
  | nil => exact fun _ _ => rfl
  | cons r rs ih => exact fun s vs => by cases vs with
    | nil => rfl
    | cons v vs => exact (ih _ _).trans (writeBank_cpsr s b r v)
@[simp] theorem writeRegs_spsrFiq (b : Bank) (rs : List Reg) : ∀ (s : State) (vs : List Word), (s.writeRegs b rs vs).spsrFiq = s.spsrFiq := by
  induction rs with
  | nil => exact fun _ _ => rfl
  | cons r rs ih => exact fun s vs => by cases vs with
    | nil => rfl
    | cons v vs => exact (ih _ _).trans (writeBank_spsrFiq s b r v)
@[simp] theorem writeRegs_spsrIrq (b : Bank) (rs : List Reg) : ∀ (s : State) (vs : List Word), (s.writeRegs b rs vs).spsrIrq = s.spsrIrq := by
  induction rs with
  | nil => exact fun _ _ => rfl
  | cons r rs ih => exact fun s vs => by cases vs with
    | nil => rfl
    | cons v vs => exact (ih _ _).trans (writeBank_spsrIrq s b r v)
@[simp] theorem writeRegs_spsrSvc (b : Bank) (rs : List Reg) : ∀ (s : State) (vs : List Word), (s.writeRegs b rs vs).spsrSvc = s.spsrSvc := by
  induction rs with
  | nil => exact fun _ _ => rfl
  | cons r rs ih => exact fun s vs => by cases vs with
    | nil => rfl
    | cons v vs => exact (ih _ _).trans (writeBank_spsrSvc s b r v)
@[simp] theorem writeRegs_spsrAbt (b : Bank) (rs : List Reg) : ∀ (s : State) (vs : List Word), (s.writeRegs b rs vs).spsrAbt = s.spsrAbt := by
  induction rs with
  | nil => exact fun _ _ => rfl
  | cons r rs ih => exact fun s vs => by cases vs with
    | nil => rfl
    | cons v vs => exact (ih _ _).trans (writeBank_spsrAbt s b r v)
@[simp] theorem writeRegs_spsrUnd (b : Bank) (rs : List Reg) : ∀ (s : State) (vs : List Word), (s.writeRegs b rs vs).spsrUnd = s.spsrUnd := by
  induction rs with
  | nil => exact fun _ _ => rfl
  | cons r rs ih => exact fun s vs => by cases vs with
    | nil => rfl
    | cons v vs => exact (ih _ _).trans (writeBank_spsrUnd s b r v)
@[simp] theorem writeRegs_pipeE (b : Bank) (rs : List Reg) : ∀ (s : State) (vs : List Word), (s.writeRegs b rs vs).pipeE = s.pipeE := by
  induction rs with
  | nil => exact fun _ _ => rfl
  | cons r rs ih => exact fun s vs => by cases vs with
    | nil => rfl
    | cons v vs => exact (ih _ _).trans (writeBank_pipeE s b r v)
@[simp] theorem writeRegs_pipeD (b : Bank) (rs : List Reg) : ∀ (s : State) (vs : List Word), (s.writeRegs b rs vs).pipeD = s.pipeD := by
  induction rs with
  | nil => exact fun _ _ => rfl
  | cons r rs ih => exact fun s vs => by cases vs with
    | nil => rfl
    | cons v vs => exact (ih _ _).trans (writeBank_pipeD s b r v)
@[simp] theorem writeRegs_pipeF (b : Bank) (rs : List Reg) : ∀ (s : State) (vs : List Word), (s.writeRegs b rs vs).pipeF = s.pipeF := by
  induction rs with
  | nil => exact fun _ _ => rfl
  | cons r rs ih => exact fun s vs => by cases vs with
    | nil => rfl
    | cons v vs => exact (ih _ _).trans (writeBank_pipeF s b r v)
@[simp] theorem writeRegs_pipeValid (b : Bank) (rs : List Reg) : ∀ (s : State) (vs : List Word), (s.writeRegs b rs vs).pipeValid = s.pipeValid := by
  induction rs with
  | nil => exact fun _ _ => rfl
  | cons r rs ih => exact fun s vs => by cases vs with
    | nil => rfl
    | cons v vs => exact (ih _ _).trans (writeBank_pipeValid s b r v)
@[simp] theorem writeRegs_halted (b : Bank) (rs : List Reg) : ∀ (s : State) (vs : List Word), (s.writeRegs b rs vs).halted = s.halted := by
  induction rs with
  | nil => exact fun _ _ => rfl
  | cons r rs ih => exact fun s vs => by cases vs with
    | nil => rfl
    | cons v vs => exact (ih _ _).trans (writeBank_halted s b r v)
@[simp] theorem writeRegs_ie (b : Bank) (rs : List Reg) : ∀ (s : State) (vs : List Word), (s.writeRegs b rs vs).ie = s.ie := by
  induction rs with
  | nil => exact fun _ _ => rfl
  | cons r rs ih => exact fun s vs => by cases vs with
    | nil => rfl
    | cons v vs => exact (ih _ _).trans (writeBank_ie s b r v)
@[simp] theorem writeRegs_iflag (b : Bank) (rs : List Reg) : ∀ (s : State) (vs : List Word), (s.writeRegs b rs vs).iflag = s.iflag := by
  induction rs with
  | nil => exact fun _ _ => rfl
  | cons r rs ih => exact fun s vs => by cases vs with
    | nil => rfl
    | cons v vs => exact (ih _ _).trans (writeBank_iflag s b r v)
@[simp] theorem writeRegs_ime (b : Bank) (rs : List Reg) : ∀ (s : State) (vs : List Word), (s.writeRegs b rs vs).ime = s.ime := by
  induction rs with
  | nil => exact fun _ _ => rfl
  | cons r rs ih => exact fun s vs => by cases vs with
    | nil => rfl
    | cons v vs => exact (ih _ _).trans (writeBank_ime s b r v)
@[simp] theorem writeRegs_dma (b : Bank) (rs : List Reg) : ∀ (s : State) (vs : List Word), (s.writeRegs b rs vs).dma = s.dma := by
  induction rs with
  | nil => exact fun _ _ => rfl
  | cons r rs ih => exact fun s vs => by cases vs with
    | nil => rfl
    | cons v vs => exact (ih _ _).trans (writeBank_dma s b r v)
@[simp] theorem writeRegs_vblankPulse (b : Bank) (rs : List Reg) : ∀ (s : State) (vs : List Word), (s.writeRegs b rs vs).vblankPulse = s.vblankPulse := by
  induction rs with
  | nil => exact fun _ _ => rfl
  | cons r rs ih => exact fun s vs => by cases vs with
    | nil => rfl
    | cons v vs => exact (ih _ _).trans (writeBank_vblankPulse s b r v)
@[simp] theorem writeRegs_hblankPulse (b : Bank) (rs : List Reg) : ∀ (s : State) (vs : List Word), (s.writeRegs b rs vs).hblankPulse = s.hblankPulse := by
  induction rs with
  | nil => exact fun _ _ => rfl
  | cons r rs ih => exact fun s vs => by cases vs with
    | nil => rfl
    | cons v vs => exact (ih _ _).trans (writeBank_hblankPulse s b r v)
@[simp] theorem writeRegs_timers (b : Bank) (rs : List Reg) : ∀ (s : State) (vs : List Word), (s.writeRegs b rs vs).timers = s.timers := by
  induction rs with
  | nil => exact fun _ _ => rfl
  | cons r rs ih => exact fun s vs => by cases vs with
    | nil => rfl
    | cons v vs => exact (ih _ _).trans (writeBank_timers s b r v)
@[simp] theorem writeRegs_lcd (b : Bank) (rs : List Reg) : ∀ (s : State) (vs : List Word), (s.writeRegs b rs vs).lcd = s.lcd := by
  induction rs with
  | nil => exact fun _ _ => rfl
  | cons r rs ih => exact fun s vs => by cases vs with
    | nil => rfl
    | cons v vs => exact (ih _ _).trans (writeBank_lcd s b r v)
@[simp] theorem writeRegs_keycnt (b : Bank) (rs : List Reg) : ∀ (s : State) (vs : List Word), (s.writeRegs b rs vs).keycnt = s.keycnt := by
  induction rs with
  | nil => exact fun _ _ => rfl
  | cons r rs ih => exact fun s vs => by cases vs with
    | nil => rfl
    | cons v vs => exact (ih _ _).trans (writeBank_keycnt s b r v)
@[simp] theorem writeRegs_keyState (b : Bank) (rs : List Reg) : ∀ (s : State) (vs : List Word), (s.writeRegs b rs vs).keyState = s.keyState := by
  induction rs with
  | nil => exact fun _ _ => rfl
  | cons r rs ih => exact fun s vs => by cases vs with
    | nil => rfl
    | cons v vs => exact (ih _ _).trans (writeBank_keyState s b r v)
@[simp] theorem writeRegs_keyInput (b : Bank) (rs : List Reg) : ∀ (s : State) (vs : List Word), (s.writeRegs b rs vs).keyInput = s.keyInput := by
  induction rs with
  | nil => exact fun _ _ => rfl
  | cons r rs ih => exact fun s vs => by cases vs with
    | nil => rfl
    | cons v vs => exact (ih _ _).trans (writeBank_keyInput s b r v)
@[simp] theorem writeRegs_mem (b : Bank) (rs : List Reg) : ∀ (s : State) (vs : List Word), (s.writeRegs b rs vs).mem = s.mem := by
  induction rs with
  | nil => exact fun _ _ => rfl
  | cons r rs ih => exact fun s vs => by cases vs with
    | nil => rfl
    | cons v vs => exact (ih _ _).trans (writeBank_mem s b r v)
@[simp] theorem writeRegs_save (b : Bank) (rs : List Reg) : ∀ (s : State) (vs : List Word), (s.writeRegs b rs vs).save = s.save := by
  induction rs with
  | nil => exact fun _ _ => rfl
  | cons r rs ih => exact fun s vs => by cases vs with
    | nil => rfl
    | cons v vs => exact (ih _ _).trans (writeBank_save s b r v)
@[simp] theorem writeRegs_params (b : Bank) (rs : List Reg) : ∀ (s : State) (vs : List Word), (s.writeRegs b rs vs).params = s.params := by
  induction rs with
  | nil => exact fun _ _ => rfl
  | cons r rs ih => exact fun s vs => by cases vs with
    | nil => rfl
    | cons v vs => exact (ih _ _).trans (writeBank_params s b r v)
@[simp] theorem writeRegs_diags (b : Bank) (rs : List Reg) : ∀ (s : State) (vs : List Word), (s.writeRegs b rs vs).diags = s.diags := by
  induction rs with
  | nil => exact fun _ _ => rfl
  | cons r rs ih => exact fun s vs => by cases vs with
    | nil => rfl
    | cons v vs => exact (ih _ _).trans (writeBank_diags s b r v)
@[simp] theorem writeRegs_pixels (b : Bank) (rs : List Reg) : ∀ (s : State) (vs : List Word), (s.writeRegs b rs vs).pixels = s.pixels := by
  induction rs with
  | nil => exact fun _ _ => rfl
  | cons r rs ih => exact fun s vs => by cases vs with
    | nil => rfl
    | cons v vs => exact (ih _ _).trans (writeBank_pixels s b r v)

/-- Loading registers leaves every other place of the register file alone. -/
theorem readBank_writeRegs_other (b b' : Bank) (q : Reg) (rs : List Reg) : ∀ (s : State) (vs : List Word),
    (q ≠ 15 → ∀ r ∈ rs, r ≠ 15 → physIndex b' q ≠ physIndex b r) → (s.writeRegs b rs vs).readBank b' q = s.readBank b' q := by
  induction rs with
  | nil => exact fun _ _ _ => rfl
  | cons r rs ih =>
    intro s vs h
    cases vs with
    | nil => rfl
    | cons v vs =>
      exact (ih _ vs fun hq r' hr' => h hq r' (List.mem_cons_of_mem _ hr')).trans
        (readBank_writeBank_other s b b' r q v fun hr hq => h hq r (by simp) hr)

/-- Each register of a list without repeats holds its word. -/
theorem readBank_writeRegs_same (b : Bank) (rs : List Reg) : ∀ (s : State) (vs : List Word), rs.Nodup →
    ∀ q ∈ rs.zip vs, q.1 ≠ 15 → (s.writeRegs b rs vs).readBank b q.1 = q.2 := by
  induction rs with
  | nil => exact fun _ _ _ q hq => by simp at hq
  | cons r rs ih =>
    intro s vs hn q hq h15
    cases vs with
    | nil => simp at hq
    | cons v vs =>
      rw [List.nodup_cons] at hn
      rw [List.zip_cons_cons, List.mem_cons] at hq
      rcases hq with rfl | hq
      · show ((s.writeBank b r v).writeRegs b rs vs).readBank b r = v
        rw [readBank_writeRegs_other]
        · exact readBank_writeBank_same s b v h15
        · intro _ r' hr' h' e
          exact hn.1 ((physIndex_eq_iff b r r' h15 h').1 e ▸ hr')
      · exact ih _ vs hn.2 q hq h15

/-- The recorded write to R15 after loading registers: the word of R15 if it is listed. -/
theorem writeRegs_pcWrite_of_not_mem (b : Bank) (rs : List Reg) : ∀ (s : State) (vs : List Word), 15 ∉ rs →
    (s.writeRegs b rs vs).pcWrite = s.pcWrite := by
  induction rs with
  | nil => exact fun _ _ _ => rfl
  | cons r rs ih =>
    intro s vs h
    cases vs with
    | nil => rfl
    | cons v vs =>
      rw [List.mem_cons, not_or] at h
      exact (ih _ vs h.2).trans (writeBank_pcWrite_of_ne (Ne.symm h.1))

end State

/-- A register list has no repeats. -/
theorem regList_nodup (list : BitVec 16) : (regList list).Nodup := by
  unfold regList
  refine List.Pairwise.map _ ?_ (List.Pairwise.filter _ (List.pairwise_lt_range (n := 16) |>.imp_of_mem fun ha hb hlt => ?_))
    (R := fun i j : Nat => i < 16 ∧ j < 16 ∧ i < j)
  · intro i j ⟨hi, hj, hlt⟩ e
    have := congrArg BitVec.toNat e
    rw [BitVec.toNat_ofNat, BitVec.toNat_ofNat] at this
    omega
  · exact ⟨List.mem_range.1 ha, List.mem_range.1 hb, hlt⟩

/-- R15 is in a register list when its bit is set. -/
theorem mem_regList (list : BitVec 16) (r : Reg) : r ∈ regList list ↔ list.getLsbD r.toNat = true := by
  unfold regList
  simp only [List.mem_map, List.mem_filter, List.mem_range]
  constructor
  · rintro ⟨i, ⟨hi, hb⟩, rfl⟩
    rwa [BitVec.toNat_ofNat, Nat.mod_eq_of_lt (by omega)]
  · intro h
    exact ⟨r.toNat, ⟨r.isLt, h⟩, by simp⟩

end Sys2Proof.Machine
end

