-- ==== Sys2Proof/Laws/Devices.lean ====
section
/-! SUPPORT. How a DMA transfer ends, what the device phases of a step leave alone, and what taking an exception does. -/

namespace Sys2Proof.Machine

/-! ## The loop of a DMA transfer (R467, R472; logs 18 and 19) -/

/-- From `s` to `t` an enabled channel keeps its count, and its enable bit where `keep` says so. -/
def CountKept (n : Fin 4) (keep : Prop) (s t : State) : Prop :=
  s.dma[n].enable = true → (keep ∨ t.dma[n].enable = true → t.dma[n].enable = true ∧ t.dma[n].remaining = s.dma[n].remaining)

theorem CountKept.of_dma {n : Fin 4} {s t : State} (keep : Prop) (h : t.dma = s.dma) : CountKept n keep s t :=
  fun e _ => by rw [h]; exact ⟨e, rfl⟩

theorem CountKept.trans {n : Fin 4} {keep : Prop} {s t u : State} (h : CountKept n True s t) (g : CountKept n keep t u) :
    CountKept n keep s u := fun e k =>
  have ⟨e', r⟩ := h e (.inl trivial)
  have ⟨e'', r'⟩ := g e' k
  ⟨e'', r'.trans r⟩

/-- A replacement of registers other than the control word and the count. -/
theorem CountKept.of_set {n : Fin 4} (keep : Prop) (s : State) (m : Fin 4) {ch : DmaChannel} (hc : ch.cntH = s.dma[m].cntH)
    (hr : ch.remaining = s.dma[m].remaining) : CountKept n keep s { s with dma := s.dma.set m ch } := by
  intro e _
  by_cases h : m = n
  · subst h; simp [DmaChannel.enable, hc, hr]; exact e
  · have : m.val ≠ n.val := fun g => h (Fin.ext g)
    simp [this]; exact e

/-- Only a write of the high byte of the control word can clear an enable bit, and only a 0 to 1 edge latches a count (R463, R472). -/
theorem CountKept.writeDmaCntH (n : Fin 4) (s : State) (m : Fin 4) (k : Nat) (b : Byte) :
    CountKept n (k = 0) s (s.writeDmaCntH m k b) := by
  intro e
  by_cases h : m = n
  · subst h
    have low : k = 0 → (setHalfByte s.dma[m].cntH k b).getLsbD 15 = true := by
      rintro rfl
      have e : s.dma[m].cntH.getLsbD 15 = true := e
      rw [setHalfByte, if_pos rfl, BitVec.getLsbD_append, if_neg (by decide), BitVec.getLsbD_extractLsb']
      exact e
    by_cases h15 : (setHalfByte s.dma[m].cntH k b).getLsbD 15 = true
    · intro _
      rw [State.writeDmaCntH, e]
      simp [DmaChannel.enable] at h15 ⊢
      simp [h15]
    · intro k'
      rw [State.writeDmaCntH, e] at k' ⊢
      simp [DmaChannel.enable] at h15 low k' ⊢
      simp [h15] at low k' ⊢
      exact absurd k' low
  · have hv : m.val ≠ n.val := fun g => h (Fin.ext g)
    intro _
    have : (s.writeDmaCntH m k b).dma[n] = s.dma[n] := by
      unfold State.writeDmaCntH; simp only; (repeat' split) <;> simp [hv]
    rw [this]; exact ⟨e, rfl⟩

/-- The byte with the enable bit is the last of its word (R74). -/
theorem ioOwner_dmaCntH {o k : Nat} {m : Fin 4} (h : ioOwner o = some (.dmaCntH m, k)) (ho : o % 4 ≠ 3) : k = 0 := by
  revert h
  fun_cases ioOwner o <;> intro h <;> first | cases h; done | skip
  have := congrArg Prod.snd (Option.some.inj h)
  simp only at this
  omega
theorem CountKept.ioWriteByte (n : Fin 4) (s : State) (o : Nat) (b : Byte) : CountKept n (o % 4 ≠ 3) s (s.ioWriteByte o b) := by
  unfold State.ioWriteByte
  split
  · next r k hr =>
    cases r with
    | dmaCntH m => exact fun e g => writeDmaCntH n s m k b e (g.imp_left (ioOwner_dmaCntH hr))
    | dmaSad m => exact of_set _ s m rfl rfl
    | dmaDad m => exact of_set _ s m rfl rfl
    | dmaCntL m => exact of_set _ s m rfl rfl
    | _ => exact of_dma _ (by simp only [State.ioWriteReg, State.writeTmCntH, State.writeHaltcnt] <;> (repeat' split) <;> first | rfl | simp)
  · exact of_dma _ rfl

theorem CountKept.busWriteByte (n : Fin 4) (s : State) (a : Word) (b : Byte) :
    CountKept n (a.toNat % 4 ≠ 3) s (s.busWriteByte a b) := by
  unfold State.busWriteByte
  split
  · next o h =>
    have : o % 4 = a.toNat % 4 := by
      have ha := a.isLt
      unfold region at h; simp only at h
      repeat' split at h
      all_goals simp only [Region.io.injEq, reduceCtorEq] at h
      omega
    exact this ▸ ioWriteByte n s o b
  · split <;> exact of_dma _ rfl
  all_goals exact of_dma _ rfl

theorem CountKept.writeBytes (n : Fin 4) (k : Nat) : ∀ (s : State) (a v : Word), a.toNat % 4 + k ≤ 4 →
    CountKept n False s (s.writeBytes a v k) := by
  induction k with
  | zero => exact fun s a v _ => of_dma _ rfl
  | succ k ih =>
    intro s a v h
    have one := busWriteByte n s a (v.extractLsb' 0 8)
    cases k with
    | zero => exact fun e g => one e (g.imp_left False.elim)
    | succ k =>
      have h3 : a.toNat % 4 ≠ 3 := by omega
      refine trans (fun e _ => one e (.inl h3)) (ih _ (a + 1) (v >>> 8) ?_)
      have := a.isLt
      rw [BitVec.toNat_add, show (1 : Word).toNat = 1 from rfl]; omega

/-- A bus write of a transfer: the byte with the enable bit is written last, so no edge can occur in it. -/
theorem CountKept.memWrite (n : Fin 4) (s : State) (a v : Word) {unit : Nat} (hu : unit = 2 ∨ unit = 4) :
    CountKept n False s (s.memWrite a unit v) := by
  unfold State.memWrite State.busWrite
  refine trans (of_dma _ ?_) (writeBytes n unit _ _ v ?_)
  · (repeat' split) <;> rfl
  · rcases hu with rfl | rfl
    · have : (alignTo a 2).toNat % 2 = 0 := by
        unfold alignTo
        rw [BitVec.toNat_and, Nat.and_mod_two_pow (n := 1)]; simp
      omega
    · rw [alignTo_four_toNat]; omega

/-- A turn of a channel that is enabled before and after it counts down by 1. -/
theorem State.dmaUnit_counts {n : Fin 4} {unit : Nat} {s : State} (hu : unit = 2 ∨ unit = 4) (he : s.dma[n].enable = true)
    (ht : (s.dmaUnit n unit).dma[n].enable = true) : (s.dmaUnit n unit).dma[n].remaining = s.dma[n].remaining - 1 := by
  unfold State.dmaUnit at ht ⊢
  simp [State.setDma, DmaChannel.enable] at ht ⊢
  have h := CountKept.memWrite n (s.memRead s.dma[n].curSrc unit).2 s.dma[n].curDst (s.memRead s.dma[n].curSrc unit).1 hu
    (by simpa using he) (.inr (by simpa [DmaChannel.enable] using ht))
  simpa using congrArg (· - 1) h.2

/-- What every turn preserves holds at the end of the loop. -/
theorem State.dmaLoop_preserves {n : Fin 4} {unit : Nat} {P : State → Prop} (turn : ∀ u, P u → P (u.dmaUnit n unit)) (k : Nat) :
    ∀ s : State, P s → P (State.dmaLoop n unit k s) := by
  induction k with
  | zero => exact fun _ h => h
  | succ k ih =>
    intro s h
    unfold State.dmaLoop
    split
    · exact ih _ (turn s h)
    · exact h

/-- Nothing is transferred for a disabled channel (R472). -/
theorem State.dmaLoop_of_disabled {n : Fin 4} {unit k : Nat} {s : State} (h : s.dma[n].enable = false) :
    State.dmaLoop n unit k s = s := by
  cases k with
  | zero => rfl
  | succ k => exact if_neg fun g => absurd (h.symm.trans g.2) (by decide)

/-- While units are left and the channel is enabled, the loop goes on with a turn (R467). -/
theorem State.dmaLoop_turn {n : Fin 4} {unit k : Nat} {s : State} (h : s.dma[n].remaining ≠ 0) (he : s.dma[n].enable = true) :
    State.dmaLoop n unit (k + 1) s = State.dmaLoop n unit k (s.dmaUnit n unit) := if_pos ⟨h, he⟩

/-- Nothing is transferred once no units are left (R467). -/
theorem State.dmaLoop_of_remaining {n : Fin 4} {unit k : Nat} {s : State} (h : s.dma[n].remaining = 0) :
    State.dmaLoop n unit k s = s := by
  cases k with
  | zero => rfl
  | succ k => exact if_neg fun g => g.1 h

/-- The loop ends because no units are left or because the channel is disabled, not for want of turns (R467, R472). -/
theorem State.dmaLoop_exit {n : Fin 4} {unit : Nat} (hu : unit = 2 ∨ unit = 4) (k : Nat) :
    ∀ s : State, s.dma[n].remaining ≤ k →
      (State.dmaLoop n unit k s).dma[n].remaining = 0 ∨ (State.dmaLoop n unit k s).dma[n].enable = false := by
  induction k with
  | zero => exact fun s h => .inl (Nat.le_zero.1 h)
  | succ k ih =>
    intro s h
    by_cases hr : s.dma[n].remaining = 0
    · rw [State.dmaLoop_of_remaining hr]; exact .inl hr
    · cases he : s.dma[n].enable with
      | false => rw [State.dmaLoop_of_disabled he]; exact .inr he
      | true =>
        rw [State.dmaLoop_turn hr he]
        cases ht : (s.dmaUnit n unit).dma[n].enable with
        | false => rw [State.dmaLoop_of_disabled ht]; exact .inr ht
        | true => exact ih _ (by rw [State.dmaUnit_counts hu he ht]; omega)

/-! ## The timers (R483) -/

/-- The timers of a list advance one after the other (R483). -/
theorem State.timersRun_cons (s : State) (c : Nat) (n : Fin 4) (rest : List (Fin 4)) :
    s.timersRun c (n :: rest) = (s.timerAdvance c n).timersRun c rest := by
  unfold State.timerAdvance
  rw [State.timersRun, State.timersRun]
  split <;> rfl

/-! ## What the device phases leave alone -/

/-- The CPU's own state and the parameters are unchanged. -/
structure SameCpu (s t : State) : Prop where
  gpr       : t.gpr = s.gpr
  r15       : t.r15 = s.r15
  pcWrite   : t.pcWrite = s.pcWrite
  cpsr      : t.cpsr = s.cpsr
  fiq       : t.spsrFiq = s.spsrFiq
  irq       : t.spsrIrq = s.spsrIrq
  svc       : t.spsrSvc = s.spsrSvc
  abt       : t.spsrAbt = s.spsrAbt
  und       : t.spsrUnd = s.spsrUnd
  pipeE     : t.pipeE = s.pipeE
  pipeD     : t.pipeD = s.pipeD
  pipeF     : t.pipeF = s.pipeF
  pipeValid : t.pipeValid = s.pipeValid
  params    : t.params = s.params

namespace SameCpu

theorem refl (s : State) : SameCpu s s := by constructor <;> rfl

theorem trans {s t u : State} (h : SameCpu s t) (g : SameCpu t u) : SameCpu s u :=
  ⟨g.1.trans h.1, g.2.trans h.2, g.3.trans h.3, g.4.trans h.4, g.5.trans h.5, g.6.trans h.6, g.7.trans h.7, g.8.trans h.8,
   g.9.trans h.9, g.10.trans h.10, g.11.trans h.11, g.12.trans h.12, g.13.trans h.13, g.14.trans h.14⟩

theorem request (s : State) (line : Nat) : SameCpu s (s.request line) := by constructor <;> simp

theorem emit (s : State) (k : DiagKind) (i : Word) : SameCpu s (s.emit k i) := by constructor <;> rfl

/-- A bus read. -/
theorem memRead (s : State) (a : Word) (n : Nat) : SameCpu s (s.memRead a n).2 := by constructor <;> simp

/-- A bus write, whatever register it reaches. -/
theorem memWrite (s : State) (a : Word) (n : Nat) (v : Word) : SameCpu s (s.memWrite a n v) := by constructor <;> simp

theorem requestIf (s : State) (b : Bool) (line : Nat) : SameCpu s (s.requestIf b line) := by
  unfold State.requestIf; split
  · exact request s line
  · exact refl s

theorem mapLcd (s : State) (f : Lcd → Lcd) : SameCpu s (s.mapLcd f) := by constructor <;> rfl

/-! ## LCD (R489 to R492) -/

theorem hblankStart (s : State) : SameCpu s s.hblankStart :=
  ((mapLcd s _).trans (requestIf _ _ 1)).trans (by constructor <;> rfl)

theorem vblankStart (s : State) : SameCpu s s.vblankStart :=
  ((mapLcd s _).trans (requestIf _ _ 0)).trans (by constructor <;> rfl)

theorem vcountCheck (s : State) : SameCpu s s.vcountCheck := (mapLcd s _).trans (requestIf _ _ 2)

theorem drawLine (s : State) : SameCpu s s.drawLine := by
  unfold State.drawLine; split
  · constructor <;> rfl
  · exact refl s

theorem reachLine (s : State) : SameCpu s s.reachLine := by
  unfold State.reachLine; split
  · exact vblankStart s
  · split
    · exact mapLcd s _
    · exact refl s

theorem lineWrap (s : State) : SameCpu s s.lineWrap :=
  ((((mapLcd s _).trans (drawLine _)).trans (mapLcd _ _)).trans (reachLine _)).trans (vcountCheck _)

theorem hblankPoint (s : State) : SameCpu s s.hblankPoint := by
  unfold State.hblankPoint; split
  · exact hblankStart s
  · exact refl s

theorem endOfLine (s : State) : SameCpu s s.endOfLine := by
  unfold State.endOfLine; split
  · exact (mapLcd s _).trans (lineWrap _)
  · exact refl s

theorem lcdCycle (s : State) : SameCpu s s.lcdCycle :=
  ((mapLcd s _).trans (hblankPoint _)).trans (endOfLine _)

theorem lcdAdvance (c : Nat) : ∀ s : State, SameCpu s (s.lcdAdvance c) := by
  induction c with
  | zero => exact refl
  | succ c ih => exact fun s => (lcdCycle s).trans (ih _)

/-! ## Timers (R483, R484) -/

theorem setTimer (s : State) (n : Fin 4) (t : Timer) : SameCpu s (s.setTimer n t) := by constructor <;> rfl

theorem tick (l : List (Fin 4)) : ∀ s : State, SameCpu s (s.tick l) := by
  induction l with
  | nil => exact refl
  | cons n rest ih =>
    intro s
    unfold State.tick
    simp only
    split
    · have h := (setTimer s n { s.timers[n] with counter := s.timers[n].reload }).trans (requestIf _ s.timers[n].irq (3 + n))
      split
      · exact h
      · split
        · exact h.trans (ih _)
        · exact h
    · exact setTimer s n _

theorem tickTimes (n : Fin 4) (k : Nat) : ∀ s : State, SameCpu s (s.tickTimes n k) := by
  induction k with
  | zero => exact refl
  | succ k ih => exact fun s => (tick _ s).trans (ih _)

theorem timersRun (c : Nat) (l : List (Fin 4)) : ∀ s : State, SameCpu s (s.timersRun c l) := by
  induction l with
  | nil => exact refl
  | cons n rest ih =>
    intro s
    unfold State.timersRun
    simp only
    split
    · exact ((setTimer s n _).trans (tickTimes _ _ _)).trans (ih _)
    · exact ih s

theorem timersAdvance (s : State) (c : Nat) : SameCpu s (s.timersAdvance c) := timersRun c _ s

/-! ## DMA (R467 to R474) -/

theorem setDma (s : State) (n : Fin 4) (ch : DmaChannel) : SameCpu s (s.setDma n ch) := by constructor <;> rfl

theorem dmaUnit (s : State) (n : Fin 4) (unit : Nat) : SameCpu s (s.dmaUnit n unit) := by
  unfold State.dmaUnit
  exact ((memRead s _ unit).trans (memWrite _ _ unit _)).trans (setDma _ n _)

theorem dmaLoop (n : Fin 4) (unit k : Nat) (s : State) : SameCpu s (State.dmaLoop n unit k s) :=
  State.dmaLoop_preserves (fun u g => g.trans (dmaUnit u n unit)) k s (refl s)

theorem dmaComplete (s : State) (n : Fin 4) : SameCpu s (s.dmaComplete n) := by
  unfold State.dmaComplete
  simp only
  split <;> exact (requestIf s _ _).trans (setDma _ n _)

theorem dmaRun (s : State) (n : Fin 4) : SameCpu s (s.dmaRun n) := by
  have rest : ∀ u, SameCpu s u → SameCpu s (if u.dma[n].remaining = 0 then u.dmaComplete n else u) := by
    intro u h; split
    · exact h.trans (dmaComplete u n)
    · exact h
  refine rest _ (trans ?_ (dmaLoop n _ _ _))
  split
  · exact emit s _ _
  · exact refl s

theorem dmaRunAll (l : List (Fin 4)) : ∀ s : State, SameCpu s (s.dmaRunAll l) := by
  induction l with
  | nil => exact refl
  | cons n rest ih =>
    intro s
    unfold State.dmaRunAll
    split
    · refine SameCpu.trans (SameCpu.trans ?_ (setDma _ n _)) (ih _)
      split
      · exact dmaRun s n
      · exact refl s
    · exact ih s

theorem dmaAdvance (s : State) (c : Nat) : SameCpu s (s.dmaAdvance c) :=
  SameCpu.trans (by constructor <;> rfl) (dmaRunAll _ _)

/-- The device phases leave the CPU alone: between two CPU steps only memory, I/O registers and device state change (R500). -/
theorem devices (s : State) (c : Nat) : SameCpu s (s.devices c) :=
  ((lcdAdvance c s).trans (dmaAdvance _ c)).trans (timersAdvance _ c)

/-! ## Keys (R499) -/

theorem sampleKeys (s : State) : SameCpu s s.sampleKeys := by
  unfold State.sampleKeys
  split
  · exact refl s
  · next k rest _ =>
    have h : SameCpu s { s with keyInput := rest } := by constructor <;> rfl
    simp only
    split
    · exact h
    · exact (h.trans (by constructor <;> rfl)).trans (requestIf { s with keyInput := rest, keyState := k } _ 12)

end SameCpu

/-! ## Taking an exception (R426, R427) -/

/-- Everything taking an exception does. -/
theorem State.takeException_spec (s : State) (e : Exc) (ret : Word) :
    let t := s.takeException e ret
    t.cpsr = { s.cpsr with mode := e.mode, t := false, i := true } ∧ t.spsrOf e.bank = some s.cpsr ∧ t.readBank e.bank 14 = ret ∧
    t.pcWrite = some e.vector ∧ (∀ b, b ≠ e.bank → t.spsrOf b = s.spsrOf b) ∧
    (∀ (b : Bank) (r : Reg), r ≠ 15 → physIndex b r ≠ physIndex e.bank 14 → t.readBank b r = s.readBank b r) ∧
    t.r15 = s.r15 ∧ t.pipeE = s.pipeE ∧ t.pipeD = s.pipeD ∧ t.pipeF = s.pipeF ∧ t.mem = s.mem ∧ t.diags = s.diags ∧ SameDevices s t := by
  have hb : e.bank ≠ .usr := by cases e <;> decide
  refine ⟨?_, ?_, ?_, rfl, ?_, ?_, ?_, ?_, ?_, ?_, ?_, ?_, ?_⟩
  · cases e <;> rfl
  · cases e <;> rfl
  · exact State.readBank_writeBank_same _ _ (r := 14) _ (by decide)
  · intro b h; cases e <;> cases b <;> first | rfl | exact absurd rfl h
  · intro b r hr h
    refine (State.readBank_writeBank_other _ e.bank b 14 r ret fun _ _ => h).trans ?_
    exact State.readBank_congr_of_ne (by simp) b hr
  all_goals (cases e <;> first | rfl | (constructor <;> rfl))

end Sys2Proof.Machine
end

