-- ==== Sys2Proof/Laws/Effects.lean ====
section
/-! SUPPORT. The effect of an instruction's operation, built up step by step: `OpFrame s x ds w` says that from `s` to `x` only the
registers `ds` of the current bank, the CPSR, the save history and the diagnostics changed, that `w` is the recorded write to R15 and
`data` what the save device saw; `OpFrame.finish` carries that to the end of the step. -/

namespace Sys2Proof.Machine

/-- What an operation has done so far, before the end of its step. -/
structure OpFrame (s x : State) (ds : List Reg) (w : Option Word) (data : List Config.SaveEvent := []) : Prop where
  regs    : SameRegs s x ds
  spsrs   : SameSpsrs s x
  devices : SameDevices s x
  mem     : x.mem = s.mem
  r15     : x.r15 = s.r15
  slotE   : x.pipeE = s.pipeE
  slotD   : x.pipeD = s.pipeD
  slotF   : x.pipeF = s.pipeF
  valid   : x.pipeValid = s.pipeValid
  pcWrite : x.pcWrite = w
  save    : SaveGrew s x data

namespace OpFrame

theorem start (s : State) : OpFrame s s.begin [] none := by
  constructor <;> first | rfl | exact SameRegs.refl _ _ | exact SaveGrew.refl s | (constructor <;> rfl)

theorem arm (s : State) (c : Cond) : OpFrame s (s.begin.noteCond c) [] none := by
  constructor <;> first | (intro b r _ _; simp; done) | (constructor <;> simp; done) | exact SaveGrew.of_eq (by simp) | simp

variable {s x : State} {ds : List Reg} {w : Option Word} {data : List Config.SaveEvent}

theorem emitHere (h : OpFrame s x ds w data) (k : DiagKind) : OpFrame s (x.emitHere k) ds w data :=
  ⟨h.regs, ⟨h.2.1, h.2.2, h.2.3, h.2.4, h.2.5⟩, by cases h.devices; constructor <;> simpa, h.4, h.5, h.6, h.7, h.8, h.9, h.10, h.11⟩

theorem emit (h : OpFrame s x ds w data) (k : DiagKind) (i : Word) : OpFrame s (x.emit k i) ds w data :=
  ⟨h.regs, ⟨h.2.1, h.2.2, h.2.3, h.2.4, h.2.5⟩, by cases h.devices; constructor <;> simpa, h.4, h.5, h.6, h.7, h.8, h.9, h.10, h.11⟩

theorem noteIllegalMode (h : OpFrame s x ds w data) : OpFrame s x.noteIllegalMode ds w data := by
  unfold State.noteIllegalMode; split
  · exact h
  · exact h.emit _ _

theorem setCpsr (h : OpFrame s x ds w data) (p : Psr) : OpFrame s (x.setCpsr p) ds w data :=
  ⟨h.regs, ⟨h.2.1, h.2.2, h.2.3, h.2.4, h.2.5⟩, by cases h.devices; constructor <;> simpa, h.4, h.5, h.6, h.7, h.8, h.9, h.10, h.11⟩

theorem updateFlags (h : OpFrame s x ds w data) (g : Psr → Psr) : OpFrame s (x.updateFlags g) ds w data := h.setCpsr _

theorem branchTo (h : OpFrame s x ds w data) (v : Word) : OpFrame s (x.branchTo v) ds (some v) data :=
  ⟨h.regs, ⟨h.2.1, h.2.2, h.2.3, h.2.4, h.2.5⟩, by cases h.devices; constructor <;> simpa, h.4, h.5, h.6, h.7, h.8, h.9, rfl, h.11⟩

theorem memRead (h : OpFrame s x ds w data) (a : Word) (n : Nat) :
    OpFrame s (x.memRead a n).2 ds w (saveReads (alignTo a n) n ++ data) := by
  refine ⟨?_, ?_, ?_, by simp [h.mem], by simp [h.r15], by simp [h.slotE], by simp [h.slotD], by simp [h.slotF],
    by simp [h.valid], by simp [h.pcWrite], h.save.trans (State.memRead_saveGrew x a n)⟩
  · intro b r hr hd; rw [← h.regs b r hr hd]; exact State.readBank_congr (by simp) (by simp) b r
  · cases h.spsrs; constructor <;> simpa
  · cases h.devices; constructor <;> simpa

theorem weaken (h : OpFrame s x ds w data) {es : List Reg} (he : ∀ d ∈ ds, d ∈ es) : OpFrame s x es w data :=
  { h with regs := fun b r hr hd => h.regs b r hr fun d hm => hd d (he d hm) }

/-- A register write through the current bank. -/
theorem writeReg (h : OpFrame s x ds w data) (hb : x.bank = s.bank) (r : Reg) (v : Word) :
    OpFrame s (x.writeReg r v) (r :: ds) (if r = 15 then some v else w) data := by
  by_cases hr : r = 15
  · rw [if_pos hr]; subst hr
    exact (h.branchTo v).weaken fun d hm => List.mem_cons_of_mem _ hm
  · rw [if_neg hr]
    refine ⟨?_, ?_, ?_, by simp [h.mem], by simp [h.r15], by simp [h.slotE], by simp [h.slotD], by simp [h.slotF],
      by simp [h.valid], (State.writeReg_pcWrite_of_ne hr).trans h.pcWrite, h.save.congr (by simp)⟩
    · intro b q hq hd
      unfold State.writeReg
      rw [State.readBank_writeBank_other]
      · exact h.regs b q hq fun d hm => hd d (List.mem_cons_of_mem _ hm)
      · intro _ _; rw [hb]; exact hd r (by simp) hr
    · cases h.spsrs; constructor <;> simpa
    · cases h.devices; constructor <;> simpa

theorem writeReg_ne (h : OpFrame s x ds w data) (hb : x.bank = s.bank) {r : Reg} (hr : r ≠ 15) (v : Word) :
    OpFrame s (x.writeReg r v) (r :: ds) w data := by
  have := h.writeReg hb r v; rwa [if_neg hr] at this

/-- The end of the step. -/
theorem finish (h : OpFrame s x ds w data) (ht : w = none → x.cpsr.t = s.cpsr.t) :
    Frame s (x.finish s.cpsr.t) ds ∧ PcAfter s (x.finish s.cpsr.t) w data ∧ (x.finish s.cpsr.t).cpsr = x.cpsr ∧
      ∀ r, r ≠ 15 → (x.finish s.cpsr.t).readReg r = x.readReg r := by
  cases w with
  | none =>
    rw [State.finish_none h.pcWrite (ht rfl)]
    refine ⟨⟨?_, ?_, ?_, SameMemory.of_mem (by simp [h.mem]) (by simp [h.devices.params])⟩, ?_, by simp,
      fun r hr => State.readReg_advance x hr⟩
    · intro b r hr hd; rw [State.readBank_advance x b hr]; exact h.regs b r hr hd
    · cases h.spsrs; constructor <;> simpa
    · cases h.devices; constructor <;> simpa
    · have e : x.iszWord = s.iszWord := by simp only [State.iszWord, ht rfl]
      exact ⟨by simp [h.r15, e], by simp [h.slotD], by simp [h.slotF], State.advance_fetch h.save, by simp [h.valid],
        by simp [h.pcWrite], h.save.trans (State.advance_saveGrew x)⟩
  | some v =>
    rw [State.finish_some h.pcWrite]
    refine ⟨⟨?_, ?_, ?_, SameMemory.of_mem (by simp [h.mem]) (by simp [h.devices.params])⟩, ?_, by simp,
      fun r hr => State.readReg_applyPc x v hr⟩
    · intro b r hr hd; rw [State.readBank_applyPc x v b hr]; exact h.regs b r hr hd
    · cases h.spsrs; constructor <;> simpa
    · cases h.devices; constructor <;> simpa
    · exact ⟨by simp, by simp, by simp, h.save.congr (by simp)⟩

end OpFrame

/-! ## The shared operations of the register instructions -/

/-- Flag updates that keep the mode and the state bit. -/
structure KeepsControl (g : Psr → Psr) : Prop where
  mode : ∀ p, (g p).mode = p.mode
  t    : ∀ p, (g p).t = p.t

theorem keepsControl_logical (v : Word) (co : Option Bool) : KeepsControl (logicalFlags v co) := ⟨fun _ => rfl, fun _ => rfl⟩
theorem keepsControl_arith (r : Sum) : KeepsControl (arithFlags r) := ⟨fun _ => rfl, fun _ => rfl⟩
theorem keepsControl_mul (v : Word) : KeepsControl (mulFlags v) := ⟨fun _ => rfl, fun _ => rfl⟩
theorem keepsControl_mull (v : BitVec 64) : KeepsControl (mullFlags v) := ⟨fun _ => rfl, fun _ => rfl⟩
theorem keepsControl_id : KeepsControl id := ⟨fun _ => rfl, fun _ => rfl⟩

/-- A register result with flags, at the end of its step: the whole effect. -/
theorem OpFrame.regResult {s x : State} {ds : List Reg} {data : List Config.SaveEvent} (h : OpFrame s x ds none data)
    (hc : x.cpsr = s.cpsr) {rd : Reg}
    (hr : rd ≠ 15) (v : Word) {g : Psr → Psr} (hg : KeepsControl g) :
    let t := ((x.writeReg rd v).updateFlags g).finish s.cpsr.t
    t.readReg rd = v ∧ t.cpsr = g s.cpsr ∧ Frame s t (rd :: ds) ∧ Advanced s t data := by
  have hb : x.bank = s.bank := by simp [State.bank, hc]
  obtain ⟨h1, h2, h3, h4⟩ := ((h.writeReg_ne hb hr v).updateFlags g).finish (fun _ => by simp [hg.t, hc])
  refine ⟨(h4 rd hr).trans ?_, by rw [h3]; simp [hc], h1, h2⟩
  rw [State.readReg_updateFlags (hg.mode _)]; exact State.readReg_writeReg_same x v hr

/-- Flags only. -/
theorem OpFrame.flagsOnly {s x : State} {ds : List Reg} {data : List Config.SaveEvent} (h : OpFrame s x ds none data)
    (hc : x.cpsr = s.cpsr)
    {g : Psr → Psr} (hg : KeepsControl g) :
    let t := (x.updateFlags g).finish s.cpsr.t
    t.cpsr = g s.cpsr ∧ Frame s t ds ∧ Advanced s t data := by
  obtain ⟨h1, h2, h3, _⟩ := (h.updateFlags g).finish (fun _ => by simp [hg.t, hc])
  exact ⟨by rw [h3]; simp [hc], h1, h2⟩

/-- The common frame of data processing with a destination other than R15 (R200). -/
theorem OpFrame.aluWrite {s x : State} {ds : List Reg} {data : List Config.SaveEvent} (h : OpFrame s x ds none data)
    (hc : x.cpsr = s.cpsr) (sf : Bool) {rd : Reg}
    (hr : rd ≠ 15) (v : Word) {g : Psr → Psr} (hg : KeepsControl g) :
    let t := (x.aluWrite sf rd v g).finish s.cpsr.t
    t.readReg rd = v ∧ t.cpsr = (if sf then g s.cpsr else s.cpsr) ∧ Frame s t (rd :: ds) ∧ Advanced s t data := by
  unfold State.aluWrite
  rw [if_neg hr]
  cases sf
  · exact h.regResult hc hr v keepsControl_id
  · exact h.regResult hc hr v hg

/-- The return from an exception: the CPSR takes the SPSR of the current bank, or stays where there is none (R179, R235). -/
theorem OpFrame.restoreFromSpsr {s x : State} {ds : List Reg} {w : Option Word}
    {data : List Config.SaveEvent} (h : OpFrame s x ds w data) (hc : x.cpsr = s.cpsr) :
    OpFrame s x.restoreFromSpsr ds w data ∧ x.restoreFromSpsr.cpsr = (s.spsrOf s.bank).getD s.cpsr := by
  have e : x.spsrOf x.bank = s.spsrOf s.bank := by
    rw [show x.bank = s.bank by simp [State.bank, hc]]
    exact State.spsrOf_congr h.2.1 h.2.2 h.2.3 h.2.4 h.2.5 _
  unfold State.restoreFromSpsr
  rw [e]
  cases s.spsrOf s.bank with
  | none => exact ⟨h.emitHere _, hc⟩
  | some p => exact ⟨(h.setCpsr p).noteIllegalMode, by simp⟩

/-- The common frame of data processing with R15 as destination (R179, R200). -/
theorem OpFrame.aluWritePc {s x : State} {ds : List Reg} {data : List Config.SaveEvent} (h : OpFrame s x ds none data)
    (hc : x.cpsr = s.cpsr) (sf : Bool) (v : Word)
    (g : Psr → Psr) :
    let t := (x.aluWrite sf 15 v g).finish s.cpsr.t
    t.cpsr = (if sf then (s.spsrOf s.bank).getD s.cpsr else s.cpsr) ∧ Branched s t v data ∧ Frame s t ds := by
  have hr := h.restoreFromSpsr hc
  unfold State.aluWrite
  rw [if_pos rfl]
  cases sf
  · obtain ⟨h1, h2, h3, _⟩ := (h.branchTo v).finish (by simp)
    exact ⟨by simp only [Bool.false_eq_true, if_false, State.writeReg_15, h3]; simp [hc], h2, h1⟩
  · obtain ⟨h1, h2, h3, _⟩ := (hr.1.branchTo v).finish (by simp)
    exact ⟨by simp only [if_true, State.writeReg_15, h3]; simp [hr.2], h2, h1⟩

end Sys2Proof.Machine
end

