-- ==== Sys2Proof/Laws/Encoding.lean ====
section
/-! SUPPORT. What the field helpers of the decoder and the encoder do: fields and bits of placed pieces, and each mask test
of R127 and R132 as its bits. -/

namespace Sys2Proof

theorem getLsbD_place {k : Nat} (n lo : Nat) (x : BitVec k) (i : Nat) :
    (place n lo x).getLsbD i = (decide (i < n) && decide (lo ≤ i) && x.getLsbD (i - lo)) := by
  simp only [place, BitVec.getLsbD_shiftLeft, BitVec.getLsbD_setWidth]
  by_cases h : i < n
  · have : i - lo < n := by omega
    by_cases h2 : lo ≤ i <;> simp [h, h2, this]
  · simp [h]

theorem getLsbD_placeBit (n j : Nat) (b : Bool) (i : Nat) :
    (placeBit n j b).getLsbD i = (decide (i < n) && decide (i = j) && b) := by
  simp only [placeBit, getLsbD_place, BitVec.getLsbD_ofBool]
  by_cases h : i = j
  · subst h; simp
  · by_cases h2 : j ≤ i
    · have : i - j ≠ 0 := by omega
      simp [h, this]
    · simp [h, h2]

theorem getElem_place {k : Nat} (n lo : Nat) (x : BitVec k) (i : Nat) (h : i < n) :
    (place n lo x)[i] = (decide (lo ≤ i) && x.getLsbD (i - lo)) := by
  rw [← BitVec.getLsbD_eq_getElem, getLsbD_place]; simp [h]

theorem getElem_placeBit (n j : Nat) (b : Bool) (i : Nat) (h : i < n) :
    (placeBit n j b)[i] = (decide (i = j) && b) := by
  rw [← BitVec.getLsbD_eq_getElem, getLsbD_placeBit]; simp [h]

theorem cond_ofCode_code (c : Cond) : Cond.ofCode c.code = c := by cases c <;> rfl

theorem shiftType_ofCode_code (t : ShiftType) : ShiftType.ofCode t.code = t := by cases t <;> rfl

theorem fld_place_same {k n lo len : Nat} (x : BitVec k) (hk : k = len) (h : lo + len ≤ n) :
    fld (place n lo x) lo len = x.cast hk := by
  subst hk
  apply BitVec.eq_of_getLsbD_eq
  intro i hi
  have : lo + i < n := by omega
  simp only [BitVec.getLsbD_extractLsb', getLsbD_place, hi, this, BitVec.getLsbD_cast]
  simp

theorem fld_place_disjoint {k n lo s len : Nat} (x : BitVec k) (h : lo + k ≤ s ∨ s + len ≤ lo) :
    fld (place n lo x) s len = 0#len := by
  apply BitVec.eq_of_getLsbD_eq
  intro i hi
  simp only [BitVec.getLsbD_extractLsb', getLsbD_place, hi, decide_true, Bool.true_and, BitVec.getLsbD_zero]
  rcases h with h | h
  · have : x.getLsbD (s + i - lo) = false := by apply BitVec.getLsbD_of_ge; omega
    simp [this]
  · have : ¬ lo ≤ s + i := by omega
    simp [this]

theorem fld_placeBit_disjoint {n j s len : Nat} (b : Bool) (h : j < s ∨ s + len ≤ j) :
    fld (placeBit n j b) s len = 0#len :=
  fld_place_disjoint _ (by omega)

theorem fld_or {n s len : Nat} (x y : BitVec n) : fld (x ||| y) s len = fld x s len ||| fld y s len := by
  apply BitVec.eq_of_getLsbD_eq
  intro i hi
  simp [hi]

theorem mask_eq_iff {n : Nat} (w m p : BitVec n) :
    w &&& m = p ↔ ∀ i, i < n → (w.getLsbD i && m.getLsbD i) = p.getLsbD i := by
  constructor
  · intro h i _; rw [← h]; simp
  · intro h; apply BitVec.eq_of_getLsbD_eq; intro i hi; simp [h i hi]

theorem test_bx_iff (w : Word) : w &&& 0x0FFFFFF0#32 = 0x012FFF10#32 ↔
    w.getLsbD 4 = true ∧ w.getLsbD 5 = false ∧ w.getLsbD 6 = false ∧ w.getLsbD 7 = false ∧ w.getLsbD 8 = true ∧ w.getLsbD 9 = true ∧ w.getLsbD 10 = true ∧ w.getLsbD 11 = true ∧ w.getLsbD 12 = true ∧ w.getLsbD 13 = true ∧ w.getLsbD 14 = true ∧ w.getLsbD 15 = true ∧ w.getLsbD 16 = true ∧ w.getLsbD 17 = true ∧ w.getLsbD 18 = true ∧ w.getLsbD 19 = true ∧ w.getLsbD 20 = false ∧ w.getLsbD 21 = true ∧ w.getLsbD 22 = false ∧ w.getLsbD 23 = false ∧ w.getLsbD 24 = true ∧ w.getLsbD 25 = false ∧ w.getLsbD 26 = false ∧ w.getLsbD 27 = false := by
  rw [mask_eq_iff]; simp only [Nat.forall_lt_succ_right]; simp [and_assoc]

theorem test_mul_iff (w : Word) : w &&& 0x0FC000F0#32 = 0x00000090#32 ↔
    w.getLsbD 4 = true ∧ w.getLsbD 5 = false ∧ w.getLsbD 6 = false ∧ w.getLsbD 7 = true ∧ w.getLsbD 22 = false ∧ w.getLsbD 23 = false ∧ w.getLsbD 24 = false ∧ w.getLsbD 25 = false ∧ w.getLsbD 26 = false ∧ w.getLsbD 27 = false := by
  rw [mask_eq_iff]; simp only [Nat.forall_lt_succ_right]; simp [and_assoc]

theorem test_mull_iff (w : Word) : w &&& 0x0F8000F0#32 = 0x00800090#32 ↔
    w.getLsbD 4 = true ∧ w.getLsbD 5 = false ∧ w.getLsbD 6 = false ∧ w.getLsbD 7 = true ∧ w.getLsbD 23 = true ∧ w.getLsbD 24 = false ∧ w.getLsbD 25 = false ∧ w.getLsbD 26 = false ∧ w.getLsbD 27 = false := by
  rw [mask_eq_iff]; simp only [Nat.forall_lt_succ_right]; simp [and_assoc]

theorem test_swp_iff (w : Word) : w &&& 0x0FB00FF0#32 = 0x01000090#32 ↔
    w.getLsbD 4 = true ∧ w.getLsbD 5 = false ∧ w.getLsbD 6 = false ∧ w.getLsbD 7 = true ∧ w.getLsbD 8 = false ∧ w.getLsbD 9 = false ∧ w.getLsbD 10 = false ∧ w.getLsbD 11 = false ∧ w.getLsbD 20 = false ∧ w.getLsbD 21 = false ∧ w.getLsbD 23 = false ∧ w.getLsbD 24 = true ∧ w.getLsbD 25 = false ∧ w.getLsbD 26 = false ∧ w.getLsbD 27 = false := by
  rw [mask_eq_iff]; simp only [Nat.forall_lt_succ_right]; simp [and_assoc]

theorem test_hsdt_iff (w : Word) : w &&& 0x0E000090#32 = 0x00000090#32 ↔
    w.getLsbD 4 = true ∧ w.getLsbD 7 = true ∧ w.getLsbD 25 = false ∧ w.getLsbD 26 = false ∧ w.getLsbD 27 = false := by
  rw [mask_eq_iff]; simp only [Nat.forall_lt_succ_right]; simp [and_assoc]

theorem test_dp_iff (w : Word) : w &&& 0x0C000000#32 = 0x00000000#32 ↔
    w.getLsbD 26 = false ∧ w.getLsbD 27 = false := by
  rw [mask_eq_iff]; simp only [Nat.forall_lt_succ_right]; simp

theorem test_media_iff (w : Word) : w &&& 0x0E000010#32 = 0x06000010#32 ↔
    w.getLsbD 4 = true ∧ w.getLsbD 25 = true ∧ w.getLsbD 26 = true ∧ w.getLsbD 27 = false := by
  rw [mask_eq_iff]; simp only [Nat.forall_lt_succ_right]; simp [and_assoc]

theorem test_sdt_iff (w : Word) : w &&& 0x0C000000#32 = 0x04000000#32 ↔
    w.getLsbD 26 = true ∧ w.getLsbD 27 = false := by
  rw [mask_eq_iff]; simp only [Nat.forall_lt_succ_right]; simp

theorem test_bdt_iff (w : Word) : w &&& 0x0E000000#32 = 0x08000000#32 ↔
    w.getLsbD 25 = false ∧ w.getLsbD 26 = false ∧ w.getLsbD 27 = true := by
  rw [mask_eq_iff]; simp only [Nat.forall_lt_succ_right]; simp [and_assoc]

theorem test_b_iff (w : Word) : w &&& 0x0E000000#32 = 0x0A000000#32 ↔
    w.getLsbD 25 = true ∧ w.getLsbD 26 = false ∧ w.getLsbD 27 = true := by
  rw [mask_eq_iff]; simp only [Nat.forall_lt_succ_right]; simp [and_assoc]

theorem test_cdt_iff (w : Word) : w &&& 0x0E000000#32 = 0x0C000000#32 ↔
    w.getLsbD 25 = false ∧ w.getLsbD 26 = true ∧ w.getLsbD 27 = true := by
  rw [mask_eq_iff]; simp only [Nat.forall_lt_succ_right]; simp [and_assoc]

theorem test_cdp_iff (w : Word) : w &&& 0x0F000010#32 = 0x0E000000#32 ↔
    w.getLsbD 4 = false ∧ w.getLsbD 24 = false ∧ w.getLsbD 25 = true ∧ w.getLsbD 26 = true ∧ w.getLsbD 27 = true := by
  rw [mask_eq_iff]; simp only [Nat.forall_lt_succ_right]; simp [and_assoc]

theorem test_crt_iff (w : Word) : w &&& 0x0F000010#32 = 0x0E000010#32 ↔
    w.getLsbD 4 = true ∧ w.getLsbD 24 = false ∧ w.getLsbD 25 = true ∧ w.getLsbD 26 = true ∧ w.getLsbD 27 = true := by
  rw [mask_eq_iff]; simp only [Nat.forall_lt_succ_right]; simp [and_assoc]

theorem test_t2_iff (h : Half) : h &&& 0xF800#16 = 0x1800#16 ↔
    h.getLsbD 11 = true ∧ h.getLsbD 12 = true ∧ h.getLsbD 13 = false ∧ h.getLsbD 14 = false ∧ h.getLsbD 15 = false := by
  rw [mask_eq_iff]; simp only [Nat.forall_lt_succ_right]; simp [and_assoc]

theorem test_t1_iff (h : Half) : h &&& 0xE000#16 = 0x0000#16 ↔
    h.getLsbD 13 = false ∧ h.getLsbD 14 = false ∧ h.getLsbD 15 = false := by
  rw [mask_eq_iff]; simp only [Nat.forall_lt_succ_right]; simp [and_assoc]

theorem test_t3_iff (h : Half) : h &&& 0xE000#16 = 0x2000#16 ↔
    h.getLsbD 13 = true ∧ h.getLsbD 14 = false ∧ h.getLsbD 15 = false := by
  rw [mask_eq_iff]; simp only [Nat.forall_lt_succ_right]; simp [and_assoc]

theorem test_t4_iff (h : Half) : h &&& 0xFC00#16 = 0x4000#16 ↔
    h.getLsbD 10 = false ∧ h.getLsbD 11 = false ∧ h.getLsbD 12 = false ∧ h.getLsbD 13 = false ∧ h.getLsbD 14 = true ∧ h.getLsbD 15 = false := by
  rw [mask_eq_iff]; simp only [Nat.forall_lt_succ_right]; simp [and_assoc]

theorem test_t5_iff (h : Half) : h &&& 0xFC00#16 = 0x4400#16 ↔
    h.getLsbD 10 = true ∧ h.getLsbD 11 = false ∧ h.getLsbD 12 = false ∧ h.getLsbD 13 = false ∧ h.getLsbD 14 = true ∧ h.getLsbD 15 = false := by
  rw [mask_eq_iff]; simp only [Nat.forall_lt_succ_right]; simp [and_assoc]

theorem test_t6_iff (h : Half) : h &&& 0xF800#16 = 0x4800#16 ↔
    h.getLsbD 11 = true ∧ h.getLsbD 12 = false ∧ h.getLsbD 13 = false ∧ h.getLsbD 14 = true ∧ h.getLsbD 15 = false := by
  rw [mask_eq_iff]; simp only [Nat.forall_lt_succ_right]; simp [and_assoc]

theorem test_t7_iff (h : Half) : h &&& 0xF200#16 = 0x5000#16 ↔
    h.getLsbD 9 = false ∧ h.getLsbD 12 = true ∧ h.getLsbD 13 = false ∧ h.getLsbD 14 = true ∧ h.getLsbD 15 = false := by
  rw [mask_eq_iff]; simp only [Nat.forall_lt_succ_right]; simp [and_assoc]

theorem test_t8_iff (h : Half) : h &&& 0xF200#16 = 0x5200#16 ↔
    h.getLsbD 9 = true ∧ h.getLsbD 12 = true ∧ h.getLsbD 13 = false ∧ h.getLsbD 14 = true ∧ h.getLsbD 15 = false := by
  rw [mask_eq_iff]; simp only [Nat.forall_lt_succ_right]; simp [and_assoc]

theorem test_t9_iff (h : Half) : h &&& 0xE000#16 = 0x6000#16 ↔
    h.getLsbD 13 = true ∧ h.getLsbD 14 = true ∧ h.getLsbD 15 = false := by
  rw [mask_eq_iff]; simp only [Nat.forall_lt_succ_right]; simp [and_assoc]

theorem test_t10_iff (h : Half) : h &&& 0xF000#16 = 0x8000#16 ↔
    h.getLsbD 12 = false ∧ h.getLsbD 13 = false ∧ h.getLsbD 14 = false ∧ h.getLsbD 15 = true := by
  rw [mask_eq_iff]; simp only [Nat.forall_lt_succ_right]; simp [and_assoc]

theorem test_t11_iff (h : Half) : h &&& 0xF000#16 = 0x9000#16 ↔
    h.getLsbD 12 = true ∧ h.getLsbD 13 = false ∧ h.getLsbD 14 = false ∧ h.getLsbD 15 = true := by
  rw [mask_eq_iff]; simp only [Nat.forall_lt_succ_right]; simp [and_assoc]

theorem test_t12_iff (h : Half) : h &&& 0xF000#16 = 0xA000#16 ↔
    h.getLsbD 12 = false ∧ h.getLsbD 13 = true ∧ h.getLsbD 14 = false ∧ h.getLsbD 15 = true := by
  rw [mask_eq_iff]; simp only [Nat.forall_lt_succ_right]; simp [and_assoc]

theorem test_t13_iff (h : Half) : h &&& 0xFF00#16 = 0xB000#16 ↔
    h.getLsbD 8 = false ∧ h.getLsbD 9 = false ∧ h.getLsbD 10 = false ∧ h.getLsbD 11 = false ∧ h.getLsbD 12 = true ∧ h.getLsbD 13 = true ∧ h.getLsbD 14 = false ∧ h.getLsbD 15 = true := by
  rw [mask_eq_iff]; simp only [Nat.forall_lt_succ_right]; simp [and_assoc]

theorem test_t14_iff (h : Half) : h &&& 0xF600#16 = 0xB400#16 ↔
    h.getLsbD 9 = false ∧ h.getLsbD 10 = true ∧ h.getLsbD 12 = true ∧ h.getLsbD 13 = true ∧ h.getLsbD 14 = false ∧ h.getLsbD 15 = true := by
  rw [mask_eq_iff]; simp only [Nat.forall_lt_succ_right]; simp [and_assoc]

theorem test_tB_iff (h : Half) : h &&& 0xF000#16 = 0xB000#16 ↔
    h.getLsbD 12 = true ∧ h.getLsbD 13 = true ∧ h.getLsbD 14 = false ∧ h.getLsbD 15 = true := by
  rw [mask_eq_iff]; simp only [Nat.forall_lt_succ_right]; simp [and_assoc]

theorem test_t15_iff (h : Half) : h &&& 0xF000#16 = 0xC000#16 ↔
    h.getLsbD 12 = false ∧ h.getLsbD 13 = false ∧ h.getLsbD 14 = true ∧ h.getLsbD 15 = true := by
  rw [mask_eq_iff]; simp only [Nat.forall_lt_succ_right]; simp [and_assoc]

theorem test_t17_iff (h : Half) : h &&& 0xFF00#16 = 0xDF00#16 ↔
    h.getLsbD 8 = true ∧ h.getLsbD 9 = true ∧ h.getLsbD 10 = true ∧ h.getLsbD 11 = true ∧ h.getLsbD 12 = true ∧ h.getLsbD 13 = false ∧ h.getLsbD 14 = true ∧ h.getLsbD 15 = true := by
  rw [mask_eq_iff]; simp only [Nat.forall_lt_succ_right]; simp [and_assoc]

theorem test_tDE_iff (h : Half) : h &&& 0xFF00#16 = 0xDE00#16 ↔
    h.getLsbD 8 = false ∧ h.getLsbD 9 = true ∧ h.getLsbD 10 = true ∧ h.getLsbD 11 = true ∧ h.getLsbD 12 = true ∧ h.getLsbD 13 = false ∧ h.getLsbD 14 = true ∧ h.getLsbD 15 = true := by
  rw [mask_eq_iff]; simp only [Nat.forall_lt_succ_right]; simp [and_assoc]

theorem test_t16_iff (h : Half) : h &&& 0xF000#16 = 0xD000#16 ↔
    h.getLsbD 12 = true ∧ h.getLsbD 13 = false ∧ h.getLsbD 14 = true ∧ h.getLsbD 15 = true := by
  rw [mask_eq_iff]; simp only [Nat.forall_lt_succ_right]; simp [and_assoc]

theorem test_t18_iff (h : Half) : h &&& 0xF800#16 = 0xE000#16 ↔
    h.getLsbD 11 = false ∧ h.getLsbD 12 = false ∧ h.getLsbD 13 = true ∧ h.getLsbD 14 = true ∧ h.getLsbD 15 = true := by
  rw [mask_eq_iff]; simp only [Nat.forall_lt_succ_right]; simp [and_assoc]

theorem test_tE8_iff (h : Half) : h &&& 0xF800#16 = 0xE800#16 ↔
    h.getLsbD 11 = true ∧ h.getLsbD 12 = false ∧ h.getLsbD 13 = true ∧ h.getLsbD 14 = true ∧ h.getLsbD 15 = true := by
  rw [mask_eq_iff]; simp only [Nat.forall_lt_succ_right]; simp [and_assoc]

/-- The bytes of a word, put together again. -/
theorem word_of_bytes (w : Word) : fld w 24 8 ++ fld w 16 8 ++ fld w 8 8 ++ fld w 0 8 = w := by
  apply BitVec.eq_of_getLsbD_eq
  intro i hi
  simp only [BitVec.getLsbD_append, BitVec.getLsbD_extractLsb']
  by_cases h1 : i < 8
  · simp [h1]
  · by_cases h2 : i < 16
    · simp [h1, show i - 8 < 8 by omega, show 8 + (i - 8) = i by omega]
    · by_cases h3 : i < 24
      · simp [h1, show ¬ i - 8 < 8 by omega, show i - 8 - 8 < 8 by omega, show 16 + (i - 8 - 8) = i by omega]
      · simp [h1, show ¬ i - 8 < 8 by omega, show ¬ i - 8 - 8 < 8 by omega, show i - 8 - 8 - 8 < 8 by omega,
          show 24 + (i - 8 - 8 - 8) = i by omega]

/-- The bytes of a halfword, put together again. -/
theorem half_of_bytes (h : Half) : fld h 8 8 ++ fld h 0 8 = h := by
  apply BitVec.eq_of_getLsbD_eq
  intro i hi
  simp only [BitVec.getLsbD_append, BitVec.getLsbD_extractLsb']
  by_cases h1 : i < 8
  · simp [h1]
  · simp [h1, show i - 8 < 8 by omega, show 8 + (i - 8) = i by omega]

/-- The byte decoder on the bytes of a word. -/
theorem decode_arm_bytes (w : Word) : decode false (Encoded.arm w).bytes = .ok (decodeArm w, []) := by
  show Except.ok (decodeArm _, []) = _
  rw [word_of_bytes]

theorem decode_thumb_bytes (h : Half) : decode true (Encoded.thumb h).bytes = .ok (decodeThumb h, []) := by
  show Except.ok (decodeThumb _, []) = _
  rw [half_of_bytes]

end Sys2Proof
end

