-- ==== Sys2Proof/Laws/PerInstr.lean ====
section
/-! SUPPORT. Facts about every instruction as syntax, one lemma per constructor. -/

namespace Sys2Proof.Laws

/-- The encoding of an instruction has the size of its set: 4 bytes in ARM state, 2 in THUMB state (R110). -/
def EncodedSize.Statement (i : Instr) : Prop := (encode i).bytes.length = if i.isThumb then 2 else 4

theorem EncodedSize.bx (c : Cond) (rn : Reg) : EncodedSize.Statement (.bx c rn) := rfl
theorem EncodedSize.mul (c : Cond) (sf : Bool) (rd rs rm : Reg) : EncodedSize.Statement (.mul c sf rd rs rm) := rfl
theorem EncodedSize.mla (c : Cond) (sf : Bool) (rd rn rs rm : Reg) : EncodedSize.Statement (.mla c sf rd rn rs rm) := rfl
theorem EncodedSize.umull (c : Cond) (sf : Bool) (rdHi rdLo rs rm : Reg) : EncodedSize.Statement (.umull c sf rdHi rdLo rs rm) := rfl
theorem EncodedSize.umlal (c : Cond) (sf : Bool) (rdHi rdLo rs rm : Reg) : EncodedSize.Statement (.umlal c sf rdHi rdLo rs rm) := rfl
theorem EncodedSize.smull (c : Cond) (sf : Bool) (rdHi rdLo rs rm : Reg) : EncodedSize.Statement (.smull c sf rdHi rdLo rs rm) := rfl
theorem EncodedSize.smlal (c : Cond) (sf : Bool) (rdHi rdLo rs rm : Reg) : EncodedSize.Statement (.smlal c sf rdHi rdLo rs rm) := rfl
theorem EncodedSize.swp (c : Cond) (rn rd rm : Reg) : EncodedSize.Statement (.swp c rn rd rm) := rfl
theorem EncodedSize.swpb (c : Cond) (rn rd rm : Reg) : EncodedSize.Statement (.swpb c rn rd rm) := rfl
theorem EncodedSize.strh (c : Cond) (p u w : Bool) (rn rd : Reg) (off : HsdtOffset) : EncodedSize.Statement (.strh c p u w rn rd off) := rfl
theorem EncodedSize.ldrh (c : Cond) (p u w : Bool) (rn rd : Reg) (off : HsdtOffset) : EncodedSize.Statement (.ldrh c p u w rn rd off) := rfl
theorem EncodedSize.ldrsb (c : Cond) (p u w : Bool) (rn rd : Reg) (off : HsdtOffset) : EncodedSize.Statement (.ldrsb c p u w rn rd off) := rfl
theorem EncodedSize.ldrsh (c : Cond) (p u w : Bool) (rn rd : Reg) (off : HsdtOffset) : EncodedSize.Statement (.ldrsh c p u w rn rd off) := rfl
theorem EncodedSize.undefHalf (c : Cond) (raw : BitVec 28) : EncodedSize.Statement (.undefHalf c raw) := rfl
theorem EncodedSize.undefMul (c : Cond) (raw : BitVec 28) : EncodedSize.Statement (.undefMul c raw) := rfl
theorem EncodedSize.mrs (c : Cond) (spsr : Bool) (rd : Reg) : EncodedSize.Statement (.mrs c spsr rd) := rfl
theorem EncodedSize.msr (c : Cond) (spsr : Bool) (mask : BitVec 4) (src : MsrOperand) : EncodedSize.Statement (.msr c spsr mask src) := rfl
theorem EncodedSize.and (c : Cond) (sf : Bool) (rn rd : Reg) (o : Operand2) : EncodedSize.Statement (.and c sf rn rd o) := rfl
theorem EncodedSize.eor (c : Cond) (sf : Bool) (rn rd : Reg) (o : Operand2) : EncodedSize.Statement (.eor c sf rn rd o) := rfl
theorem EncodedSize.sub (c : Cond) (sf : Bool) (rn rd : Reg) (o : Operand2) : EncodedSize.Statement (.sub c sf rn rd o) := rfl
theorem EncodedSize.rsb (c : Cond) (sf : Bool) (rn rd : Reg) (o : Operand2) : EncodedSize.Statement (.rsb c sf rn rd o) := rfl
theorem EncodedSize.add (c : Cond) (sf : Bool) (rn rd : Reg) (o : Operand2) : EncodedSize.Statement (.add c sf rn rd o) := rfl
theorem EncodedSize.adc (c : Cond) (sf : Bool) (rn rd : Reg) (o : Operand2) : EncodedSize.Statement (.adc c sf rn rd o) := rfl
theorem EncodedSize.sbc (c : Cond) (sf : Bool) (rn rd : Reg) (o : Operand2) : EncodedSize.Statement (.sbc c sf rn rd o) := rfl
theorem EncodedSize.rsc (c : Cond) (sf : Bool) (rn rd : Reg) (o : Operand2) : EncodedSize.Statement (.rsc c sf rn rd o) := rfl
theorem EncodedSize.tst (c : Cond) (rn : Reg) (o : Operand2) : EncodedSize.Statement (.tst c rn o) := rfl
theorem EncodedSize.teq (c : Cond) (rn : Reg) (o : Operand2) : EncodedSize.Statement (.teq c rn o) := rfl
theorem EncodedSize.cmp (c : Cond) (rn : Reg) (o : Operand2) : EncodedSize.Statement (.cmp c rn o) := rfl
theorem EncodedSize.cmn (c : Cond) (rn : Reg) (o : Operand2) : EncodedSize.Statement (.cmn c rn o) := rfl
theorem EncodedSize.orr (c : Cond) (sf : Bool) (rn rd : Reg) (o : Operand2) : EncodedSize.Statement (.orr c sf rn rd o) := rfl
theorem EncodedSize.mov (c : Cond) (sf : Bool) (rd : Reg) (o : Operand2) : EncodedSize.Statement (.mov c sf rd o) := rfl
theorem EncodedSize.bic (c : Cond) (sf : Bool) (rn rd : Reg) (o : Operand2) : EncodedSize.Statement (.bic c sf rn rd o) := rfl
theorem EncodedSize.mvn (c : Cond) (sf : Bool) (rd : Reg) (o : Operand2) : EncodedSize.Statement (.mvn c sf rd o) := rfl
theorem EncodedSize.undefMedia (c : Cond) (raw : BitVec 28) : EncodedSize.Statement (.undefMedia c raw) := rfl
theorem EncodedSize.str (c : Cond) (p u w : Bool) (rn rd : Reg) (off : SdtOffset) : EncodedSize.Statement (.str c p u w rn rd off) := rfl
theorem EncodedSize.ldr (c : Cond) (p u w : Bool) (rn rd : Reg) (off : SdtOffset) : EncodedSize.Statement (.ldr c p u w rn rd off) := rfl
theorem EncodedSize.strb (c : Cond) (p u w : Bool) (rn rd : Reg) (off : SdtOffset) : EncodedSize.Statement (.strb c p u w rn rd off) := rfl
theorem EncodedSize.ldrb (c : Cond) (p u w : Bool) (rn rd : Reg) (off : SdtOffset) : EncodedSize.Statement (.ldrb c p u w rn rd off) := rfl
theorem EncodedSize.strt (c : Cond) (u : Bool) (rn rd : Reg) (off : SdtOffset) : EncodedSize.Statement (.strt c u rn rd off) := rfl
theorem EncodedSize.ldrt (c : Cond) (u : Bool) (rn rd : Reg) (off : SdtOffset) : EncodedSize.Statement (.ldrt c u rn rd off) := rfl
theorem EncodedSize.strbt (c : Cond) (u : Bool) (rn rd : Reg) (off : SdtOffset) : EncodedSize.Statement (.strbt c u rn rd off) := rfl
theorem EncodedSize.ldrbt (c : Cond) (u : Bool) (rn rd : Reg) (off : SdtOffset) : EncodedSize.Statement (.ldrbt c u rn rd off) := rfl
theorem EncodedSize.stm (c : Cond) (p u sb w : Bool) (rn : Reg) (list : BitVec 16) : EncodedSize.Statement (.stm c p u sb w rn list) := rfl
theorem EncodedSize.ldm (c : Cond) (p u sb w : Bool) (rn : Reg) (list : BitVec 16) : EncodedSize.Statement (.ldm c p u sb w rn list) := rfl
theorem EncodedSize.b (c : Cond) (off : BitVec 24) : EncodedSize.Statement (.b c off) := rfl
theorem EncodedSize.bl (c : Cond) (off : BitVec 24) : EncodedSize.Statement (.bl c off) := rfl
theorem EncodedSize.stc (c : Cond) (p u n w : Bool) (rn crd cpn : BitVec 4) (off : BitVec 8) : EncodedSize.Statement (.stc c p u n w rn crd cpn off) := rfl
theorem EncodedSize.ldc (c : Cond) (p u n w : Bool) (rn crd cpn : BitVec 4) (off : BitVec 8) : EncodedSize.Statement (.ldc c p u n w rn crd cpn off) := rfl
theorem EncodedSize.cdp (c : Cond) (opc crn crd cpn : BitVec 4) (cp : BitVec 3) (crm : BitVec 4) : EncodedSize.Statement (.cdp c opc crn crd cpn cp crm) := rfl
theorem EncodedSize.mcr (c : Cond) (opc : BitVec 3) (crn rd cpn : BitVec 4) (cp : BitVec 3) (crm : BitVec 4) : EncodedSize.Statement (.mcr c opc crn rd cpn cp crm) := rfl
theorem EncodedSize.mrc (c : Cond) (opc : BitVec 3) (crn rd cpn : BitVec 4) (cp : BitVec 3) (crm : BitVec 4) : EncodedSize.Statement (.mrc c opc crn rd cpn cp crm) := rfl
theorem EncodedSize.swi (c : Cond) (comment : BitVec 24) : EncodedSize.Statement (.swi c comment) := rfl
theorem EncodedSize.tAddReg (rn rs rd : LowReg) : EncodedSize.Statement (.tAddReg rn rs rd) := rfl
theorem EncodedSize.tSubReg (rn rs rd : LowReg) : EncodedSize.Statement (.tSubReg rn rs rd) := rfl
theorem EncodedSize.tAddImm3 (imm : BitVec 3) (rs rd : LowReg) : EncodedSize.Statement (.tAddImm3 imm rs rd) := rfl
theorem EncodedSize.tSubImm3 (imm : BitVec 3) (rs rd : LowReg) : EncodedSize.Statement (.tSubImm3 imm rs rd) := rfl
theorem EncodedSize.tLslImm (imm : BitVec 5) (rs rd : LowReg) : EncodedSize.Statement (.tLslImm imm rs rd) := rfl
theorem EncodedSize.tLsrImm (imm : BitVec 5) (rs rd : LowReg) : EncodedSize.Statement (.tLsrImm imm rs rd) := rfl
theorem EncodedSize.tAsrImm (imm : BitVec 5) (rs rd : LowReg) : EncodedSize.Statement (.tAsrImm imm rs rd) := rfl
theorem EncodedSize.tMovImm (rd : LowReg) (imm : BitVec 8) : EncodedSize.Statement (.tMovImm rd imm) := rfl
theorem EncodedSize.tCmpImm (rd : LowReg) (imm : BitVec 8) : EncodedSize.Statement (.tCmpImm rd imm) := rfl
theorem EncodedSize.tAddImm8 (rd : LowReg) (imm : BitVec 8) : EncodedSize.Statement (.tAddImm8 rd imm) := rfl
theorem EncodedSize.tSubImm8 (rd : LowReg) (imm : BitVec 8) : EncodedSize.Statement (.tSubImm8 rd imm) := rfl
theorem EncodedSize.tAnd (rs rd : LowReg) : EncodedSize.Statement (.tAnd rs rd) := rfl
theorem EncodedSize.tEor (rs rd : LowReg) : EncodedSize.Statement (.tEor rs rd) := rfl
theorem EncodedSize.tLsl (rs rd : LowReg) : EncodedSize.Statement (.tLsl rs rd) := rfl
theorem EncodedSize.tLsr (rs rd : LowReg) : EncodedSize.Statement (.tLsr rs rd) := rfl
theorem EncodedSize.tAsr (rs rd : LowReg) : EncodedSize.Statement (.tAsr rs rd) := rfl
theorem EncodedSize.tAdc (rs rd : LowReg) : EncodedSize.Statement (.tAdc rs rd) := rfl
theorem EncodedSize.tSbc (rs rd : LowReg) : EncodedSize.Statement (.tSbc rs rd) := rfl
theorem EncodedSize.tRor (rs rd : LowReg) : EncodedSize.Statement (.tRor rs rd) := rfl
theorem EncodedSize.tTst (rs rd : LowReg) : EncodedSize.Statement (.tTst rs rd) := rfl
theorem EncodedSize.tNeg (rs rd : LowReg) : EncodedSize.Statement (.tNeg rs rd) := rfl
theorem EncodedSize.tCmp (rs rd : LowReg) : EncodedSize.Statement (.tCmp rs rd) := rfl
theorem EncodedSize.tCmn (rs rd : LowReg) : EncodedSize.Statement (.tCmn rs rd) := rfl
theorem EncodedSize.tOrr (rs rd : LowReg) : EncodedSize.Statement (.tOrr rs rd) := rfl
theorem EncodedSize.tMul (rs rd : LowReg) : EncodedSize.Statement (.tMul rs rd) := rfl
theorem EncodedSize.tBic (rs rd : LowReg) : EncodedSize.Statement (.tBic rs rd) := rfl
theorem EncodedSize.tMvn (rs rd : LowReg) : EncodedSize.Statement (.tMvn rs rd) := rfl
theorem EncodedSize.tAddHi (rs rd : Reg) : EncodedSize.Statement (.tAddHi rs rd) := rfl
theorem EncodedSize.tCmpHi (rs rd : Reg) : EncodedSize.Statement (.tCmpHi rs rd) := rfl
theorem EncodedSize.tMovHi (rs rd : Reg) : EncodedSize.Statement (.tMovHi rs rd) := rfl
theorem EncodedSize.tBx (rs : Reg) : EncodedSize.Statement (.tBx rs) := rfl
theorem EncodedSize.tLdrPc (rd : LowReg) (word8 : BitVec 8) : EncodedSize.Statement (.tLdrPc rd word8) := rfl
theorem EncodedSize.tStrReg (ro rb rd : LowReg) : EncodedSize.Statement (.tStrReg ro rb rd) := rfl
theorem EncodedSize.tStrbReg (ro rb rd : LowReg) : EncodedSize.Statement (.tStrbReg ro rb rd) := rfl
theorem EncodedSize.tLdrReg (ro rb rd : LowReg) : EncodedSize.Statement (.tLdrReg ro rb rd) := rfl
theorem EncodedSize.tLdrbReg (ro rb rd : LowReg) : EncodedSize.Statement (.tLdrbReg ro rb rd) := rfl
theorem EncodedSize.tStrhReg (ro rb rd : LowReg) : EncodedSize.Statement (.tStrhReg ro rb rd) := rfl
theorem EncodedSize.tLdrhReg (ro rb rd : LowReg) : EncodedSize.Statement (.tLdrhReg ro rb rd) := rfl
theorem EncodedSize.tLdsbReg (ro rb rd : LowReg) : EncodedSize.Statement (.tLdsbReg ro rb rd) := rfl
theorem EncodedSize.tLdshReg (ro rb rd : LowReg) : EncodedSize.Statement (.tLdshReg ro rb rd) := rfl
theorem EncodedSize.tStrImm (imm : BitVec 5) (rb rd : LowReg) : EncodedSize.Statement (.tStrImm imm rb rd) := rfl
theorem EncodedSize.tLdrImm (imm : BitVec 5) (rb rd : LowReg) : EncodedSize.Statement (.tLdrImm imm rb rd) := rfl
theorem EncodedSize.tStrbImm (imm : BitVec 5) (rb rd : LowReg) : EncodedSize.Statement (.tStrbImm imm rb rd) := rfl
theorem EncodedSize.tLdrbImm (imm : BitVec 5) (rb rd : LowReg) : EncodedSize.Statement (.tLdrbImm imm rb rd) := rfl
theorem EncodedSize.tStrhImm (imm : BitVec 5) (rb rd : LowReg) : EncodedSize.Statement (.tStrhImm imm rb rd) := rfl
theorem EncodedSize.tLdrhImm (imm : BitVec 5) (rb rd : LowReg) : EncodedSize.Statement (.tLdrhImm imm rb rd) := rfl
theorem EncodedSize.tStrSp (rd : LowReg) (word8 : BitVec 8) : EncodedSize.Statement (.tStrSp rd word8) := rfl
theorem EncodedSize.tLdrSp (rd : LowReg) (word8 : BitVec 8) : EncodedSize.Statement (.tLdrSp rd word8) := rfl
theorem EncodedSize.tAddPc (rd : LowReg) (word8 : BitVec 8) : EncodedSize.Statement (.tAddPc rd word8) := rfl
theorem EncodedSize.tAddSp (rd : LowReg) (word8 : BitVec 8) : EncodedSize.Statement (.tAddSp rd word8) := rfl
theorem EncodedSize.tAddSpImm (sword7 : BitVec 7) : EncodedSize.Statement (.tAddSpImm sword7) := rfl
theorem EncodedSize.tSubSpImm (sword7 : BitVec 7) : EncodedSize.Statement (.tSubSpImm sword7) := rfl
theorem EncodedSize.tPush (lr : Bool) (list : BitVec 8) : EncodedSize.Statement (.tPush lr list) := rfl
theorem EncodedSize.tPop (pc : Bool) (list : BitVec 8) : EncodedSize.Statement (.tPop pc list) := rfl
theorem EncodedSize.tUndefB (raw : BitVec 12) : EncodedSize.Statement (.tUndefB raw) := rfl
theorem EncodedSize.tStmia (rb : LowReg) (list : BitVec 8) : EncodedSize.Statement (.tStmia rb list) := rfl
theorem EncodedSize.tLdmia (rb : LowReg) (list : BitVec 8) : EncodedSize.Statement (.tLdmia rb list) := rfl
theorem EncodedSize.tSwi (value8 : BitVec 8) : EncodedSize.Statement (.tSwi value8) := rfl
theorem EncodedSize.tUndefDE (raw : BitVec 8) : EncodedSize.Statement (.tUndefDE raw) := rfl
theorem EncodedSize.tBcond (c : Cond) (off : BitVec 8) : EncodedSize.Statement (.tBcond c off) := rfl
theorem EncodedSize.tB (off : BitVec 11) : EncodedSize.Statement (.tB off) := rfl
theorem EncodedSize.tUndefE8 (raw : BitVec 11) : EncodedSize.Statement (.tUndefE8 raw) := rfl
theorem EncodedSize.tBlPrefix (off : BitVec 11) : EncodedSize.Statement (.tBlPrefix off) := rfl
theorem EncodedSize.tBlSuffix (off : BitVec 11) : EncodedSize.Statement (.tBlSuffix off) := rfl

end Sys2Proof.Laws
end

