-- ==== Sys2Proof/Tests/Slice0.lean ====
section
/-! SUPPORT. The model's own tests. Expected results come from the spec: the vectors of 95_test_vectors.md and
96_test_vectors_thumb_system.md (their ids stand in the docstrings), the layouts of 30_encoding.md, or a calculation by hand from
the rule named. The last part shows, for every obligation with hypotheses, a state and operands that meet them. -/

namespace Sys2Proof.Tests

open Sys2Proof.Machine Host

/-! ## Ill-formed terms are refused -/

theorem test_illFormed_sdt : (Instr.str .al false true true 1 0 (.imm 4)).wellFormed = false ∧
    (Instr.ldr .al false true true 1 0 (.imm 4)).wellFormed = false ∧
    (Instr.strb .al false true true 1 0 (.imm 4)).wellFormed = false ∧
    (Instr.ldrb .al false true true 1 0 (.imm 4)).wellFormed = false := by decide
theorem test_illFormed_undefHalf : (Instr.undefHalf .al 0x00000B0).wellFormed = false := by decide
theorem test_illFormed_undefMul : (Instr.undefMul .al 0x0000090).wellFormed = false ∧
    (Instr.undefMul .al 0x0800090).wellFormed = false ∧ (Instr.undefMul .al 0x1000090).wellFormed = false ∧
    (Instr.undefMul .al 0x1800080).wellFormed = false := by decide
theorem test_illFormed_undefMedia : (Instr.undefMedia .al 0x6000000).wellFormed = false := by decide
theorem test_illFormed_undefB : (Instr.tUndefB 0x000).wellFormed = false ∧ (Instr.tUndefB 0xC00).wellFormed = false := by decide
theorem test_illFormed_bcond : (Instr.tBcond .al 0).wellFormed = false ∧ (Instr.tBcond .nv 0).wellFormed = false := by decide

/-! ## Decoding: words written out from the layouts of 30_encoding.md -/

/-- BX R3; MUL(S) R1, R2, R3; MLA R1, R2, R3, R4 (R113). -/
theorem test_decode_multiply : decodeArm 0xE12FFF13 = .bx .al 3 ∧ decodeArm 0xE0110392 = .mul .al true 1 3 2 ∧
    decodeArm 0xE0214392 = .mla .al false 1 4 3 2 := by decide

/-- xMULL and xMLAL R1, R2, R3, R4: RdLo = 1, RdHi = 2, Rm = 3, Rs = 4. -/
theorem test_decode_multiply_long : decodeArm 0xE0821493 = .umull .al false 2 1 4 3 ∧
    decodeArm 0xE0B21493 = .umlal .al true 2 1 4 3 ∧ decodeArm 0xE0C21493 = .smull .al false 2 1 4 3 ∧
    decodeArm 0xE0F21493 = .smlal .al true 2 1 4 3 := by decide

/-- SWP R1, R2, [R3]; STRH R1, [R2, #0x34]!; LDRH R1, [R2], -R3; LDRSB R1, [R2, #-5]; LDRSH R1, [R2, R3]!. -/
theorem test_decode_swap_halfword : decodeArm 0xE1031092 = .swp .al 3 1 2 ∧ decodeArm 0xE1431092 = .swpb .al 3 1 2 ∧
    decodeArm 0xE1E213B4 = .strh .al true true true 2 1 (.imm 0x34) ∧
    decodeArm 0xE01210B3 = .ldrh .al false false false 2 1 (.reg 3) ∧
    decodeArm 0xE15210D5 = .ldrsb .al true false false 2 1 (.imm 5) ∧
    decodeArm 0xE1B210F3 = .ldrsh .al true true true 2 1 (.reg 3) := by decide

theorem test_decode_undefined : decodeArm 0xE00000D0 = .undefHalf .al 0x00000D0 ∧
    decodeArm 0xE1800090 = .undefMul .al 0x1800090 ∧ decodeArm 0xE6000010 = .undefMedia .al 0x6000010 := by decide

/-- MRS R1, SPSR; MSR CPSR_f, #0xF0000000; MSR SPSR_fc, R5. -/
theorem test_decode_psr : decodeArm 0xE14F1000 = .mrs .al true 1 ∧ decodeArm 0xE328F4F0 = .msr .al false 8 (.imm 4 0xF0) ∧
    decodeArm 0xE169F005 = .msr .al true 9 (.reg 5) := by decide

/-- The first operations with each form of operand 2: an immediate, a shift by an immediate, a shift by a register. -/
theorem test_decode_data_low : decodeArm 0xE20212FF = .and .al false 2 1 (.imm 2 0xFF) ∧
    decodeArm 0xE03212A3 = .eor .al true 2 1 (.shiftImm 3 .lsr 5) ∧
    decodeArm 0xE0421453 = .sub .al false 2 1 (.shiftReg 3 .asr 4) ∧
    decodeArm 0xE0621003 = .rsb .al false 2 1 (.shiftImm 3 .lsl 0) ∧ decodeArm 0xE0821003 = .add .al false 2 1 (.shiftImm 3 .lsl 0) ∧
    decodeArm 0xE0A21003 = .adc .al false 2 1 (.shiftImm 3 .lsl 0) ∧ decodeArm 0xE0C21003 = .sbc .al false 2 1 (.shiftImm 3 .lsl 0) ∧
    decodeArm 0xE0E21003 = .rsc .al false 2 1 (.shiftImm 3 .lsl 0) := by decide

theorem test_decode_data_high : decodeArm 0xE1120003 = .tst .al 2 (.shiftImm 3 .lsl 0) ∧
    decodeArm 0xE1320003 = .teq .al 2 (.shiftImm 3 .lsl 0) ∧ decodeArm 0xE1520003 = .cmp .al 2 (.shiftImm 3 .lsl 0) ∧
    decodeArm 0xE1720003 = .cmn .al 2 (.shiftImm 3 .lsl 0) ∧ decodeArm 0xE1821003 = .orr .al false 2 1 (.shiftImm 3 .lsl 0) ∧
    decodeArm 0xE1A01003 = .mov .al false 1 (.shiftImm 3 .lsl 0) ∧ decodeArm 0xE1C21003 = .bic .al false 2 1 (.shiftImm 3 .lsl 0) ∧
    decodeArm 0xE1E01003 = .mvn .al false 1 (.shiftImm 3 .lsl 0) := by decide

/-- STR R1, [R2, #0x123]!; LDR R1, [R2, -R3, LSL #2]; STRB R1, [R2], #4; LDRB R1, [R2, #-1]. -/
theorem test_decode_transfer : decodeArm 0xE5A21123 = .str .al true true true 2 1 (.imm 0x123) ∧
    decodeArm 0xE7121103 = .ldr .al true false false 2 1 (.reg 3 .lsl 2) ∧
    decodeArm 0xE4C21004 = .strb .al false true false 2 1 (.imm 4) ∧
    decodeArm 0xE5521001 = .ldrb .al true false false 2 1 (.imm 1) := by decide

/-- STRT R1, [R2], #4; LDRT R1, [R2], -R3; STRBT R1, [R2], #4; LDRBT R1, [R2], #-4. -/
theorem test_decode_transfer_user : decodeArm 0xE4A21004 = .strt .al true 2 1 (.imm 4) ∧
    decodeArm 0xE6321003 = .ldrt .al false 2 1 (.reg 3 .lsl 0) ∧ decodeArm 0xE4E21004 = .strbt .al true 2 1 (.imm 4) ∧
    decodeArm 0xE4721004 = .ldrbt .al false 2 1 (.imm 4) := by decide

/-- STMDB SP!, (R0-R3, LR); LDMIA SP, (SP, LR)^; BEQ .; BL .+16; SWI 5. -/
theorem test_decode_block_branch : decodeArm 0xE92D400F = .stm .al true false false true 13 0x400F ∧
    decodeArm 0xE8DD6000 = .ldm .al false true true false 13 0x6000 ∧ decodeArm 0x0AFFFFFE = .b .eq 0xFFFFFE ∧
    decodeArm 0xEB000002 = .bl .al 2 ∧ decodeArm 0xEF000005 = .swi .al 5 := by decide

/-- STC p2, c1, [R3, #4]!; LDCL p2, c1, [R3], #-20 with W = 0; CDP p3, 1, c4, c5, c6, 2; MCR and MRC p15, 1, R2, c3, c4, 5. -/
theorem test_decode_coprocessor : decodeArm 0xEDA31201 = .stc .al true true false true 3 1 2 1 ∧
    decodeArm 0xEC531205 = .ldc .al false false true false 3 1 2 5 ∧ decodeArm 0xEE154346 = .cdp .al 1 5 4 3 2 6 ∧
    decodeArm 0xEE232FB4 = .mcr .al 1 3 2 15 5 4 ∧ decodeArm 0xEE332FB4 = .mrc .al 1 3 2 15 5 4 := by decide

/-- Formats 1 to 3. -/
theorem test_decode_thumb_immediate : decodeThumb 0x1888 = .tAddReg 2 1 0 ∧ decodeThumb 0x1A88 = .tSubReg 2 1 0 ∧
    decodeThumb 0x1DC8 = .tAddImm3 7 1 0 ∧ decodeThumb 0x1E48 = .tSubImm3 1 1 0 ∧ decodeThumb 0x0108 = .tLslImm 4 1 0 ∧
    decodeThumb 0x0848 = .tLsrImm 1 1 0 ∧ decodeThumb 0x1108 = .tAsrImm 4 1 0 ∧ decodeThumb 0x23FF = .tMovImm 3 0xFF ∧
    decodeThumb 0x2810 = .tCmpImm 0 0x10 ∧ decodeThumb 0x30FF = .tAddImm8 0 0xFF ∧ decodeThumb 0x3801 = .tSubImm8 0 1 := by decide

/-- Format 4: op 0 to 15 with Rs = 1, Rd = 0. -/
theorem test_decode_thumb_alu : [0x4008, 0x4048, 0x4088, 0x40C8, 0x4108, 0x4148, 0x4188, 0x41C8, 0x4208, 0x4248, 0x4288, 0x42C8, 0x4308,
      0x4348, 0x4388, 0x43C8].map decodeThumb =
    [.tAnd 1 0, .tEor 1 0, .tLsl 1 0, .tLsr 1 0, .tAsr 1 0, .tAdc 1 0, .tSbc 1 0, .tRor 1 0, .tTst 1 0, .tNeg 1 0, .tCmp 1 0,
     .tCmn 1 0, .tOrr 1 0, .tMul 1 0, .tBic 1 0, .tMvn 1 0] := by decide

/-- Format 5: ADD R8, R1; CMP R0, R8; MOV PC, LR; BX LR. -/
theorem test_decode_thumb_high : decodeThumb 0x4488 = .tAddHi 1 8 ∧ decodeThumb 0x4540 = .tCmpHi 8 0 ∧
    decodeThumb 0x46F7 = .tMovHi 14 15 ∧ decodeThumb 0x4770 = .tBx 14 := by decide

/-- Formats 6 to 8. -/
theorem test_decode_thumb_register_offset : decodeThumb 0x4801 = .tLdrPc 0 1 ∧ decodeThumb 0x5088 = .tStrReg 2 1 0 ∧
    decodeThumb 0x5488 = .tStrbReg 2 1 0 ∧ decodeThumb 0x5888 = .tLdrReg 2 1 0 ∧ decodeThumb 0x5C88 = .tLdrbReg 2 1 0 ∧
    decodeThumb 0x5288 = .tStrhReg 2 1 0 ∧ decodeThumb 0x5A88 = .tLdrhReg 2 1 0 ∧ decodeThumb 0x5688 = .tLdsbReg 2 1 0 ∧
    decodeThumb 0x5E88 = .tLdshReg 2 1 0 := by decide

/-- Formats 9 to 13. -/
theorem test_decode_thumb_immediate_offset : decodeThumb 0x67C8 = .tStrImm 31 1 0 ∧ decodeThumb 0x6848 = .tLdrImm 1 1 0 ∧
    decodeThumb 0x77C8 = .tStrbImm 31 1 0 ∧ decodeThumb 0x7888 = .tLdrbImm 2 1 0 ∧ decodeThumb 0x87C8 = .tStrhImm 31 1 0 ∧
    decodeThumb 0x8848 = .tLdrhImm 1 1 0 ∧ decodeThumb 0x90FF = .tStrSp 0 0xFF ∧ decodeThumb 0x9A01 = .tLdrSp 2 1 ∧
    decodeThumb 0xA001 = .tAddPc 0 1 ∧ decodeThumb 0xA8FF = .tAddSp 0 0xFF ∧ decodeThumb 0xB07F = .tAddSpImm 0x7F ∧
    decodeThumb 0xB081 = .tSubSpImm 1 := by decide

/-- Formats 14 to 19 and the unassigned halfwords. -/
theorem test_decode_thumb_block_branch : decodeThumb 0xB501 = .tPush true 1 ∧ decodeThumb 0xBD01 = .tPop true 1 ∧
    decodeThumb 0xB100 = .tUndefB 0x100 ∧ decodeThumb 0xC103 = .tStmia 1 3 ∧ decodeThumb 0xC806 = .tLdmia 0 6 ∧
    decodeThumb 0xDF07 = .tSwi 7 ∧ decodeThumb 0xDE00 = .tUndefDE 0 ∧ decodeThumb 0xDB80 = .tBcond .lt 0x80 ∧
    decodeThumb 0xE400 = .tB 0x400 ∧ decodeThumb 0xE800 = .tUndefE8 0 ∧ decodeThumb 0xF7FF = .tBlPrefix 0x7FF ∧
    decodeThumb 0xF802 = .tBlSuffix 2 := by decide

/-- A byte stream that ends inside an instruction is refused. -/
theorem test_decode_short : (decode false [1, 2, 3]).toOption = none ∧ (decode true [1]).toOption = none := by decide

/-! ## One step of every instruction -/

/-- The start state of a vector: the registers named by bank and number, the words named, the pipeline invalid at `a`. -/
def start (cpsr a : Word) (regs : List (Bank × Reg × Word)) (mem : List (Word × Word)) : State :=
  let s := regs.foldl (fun s q => s.writeBank q.1 q.2.1 q.2.2) ({ State.reset with r15 := a }.setCpsr (.ofWord cpsr))
  mem.foldl (fun s q => s.placeBytes q.1 [q.2.extractLsb' 0 8, q.2.extractLsb' 8 8, q.2.extractLsb' 16 8, q.2.extractLsb' 24 8]) s

/-- The step that runs a word as the next instruction. -/
def run (s : State) (nbits w : Nat) : Outcome State Fault Refusal := step (s.withFetchWord nbits w)

/-- A test of the next state. -/
def after (o : Outcome State Fault Refusal) (p : State → Bool) : Bool :=
  match o with
  | .next t => p t
  | .fault _ | .refused _ => false

/-- The end state of a vector: CPSR, R15, pipeline, registers, words and the diagnostics, newest first. -/
def ends (o : Outcome State Fault Refusal) (cpsr r15 : Word) (valid : Bool) (regs : List (Bank × Reg × Word))
    (mem : List (Word × Word)) (ds : List Diag) : Bool :=
  after o fun t => t.cpsr.toWord == cpsr && t.r15 == r15 && t.pipeValid == valid &&
    regs.all (fun q => t.readBank q.1 q.2.1 == q.2.2) && mem.all (fun q => (t.memRead q.1 4).1 == q.2) && t.diags == ds

/-- The SPSR of a bank at the end of a step. -/
def savedStatus (o : Outcome State Fault Refusal) (b : Bank) (v : Word) : Bool :=
  after o fun t => t.spsrOf b == some (.ofWord v)

/-- V41-8: BX R0. -/
theorem test_bx : ends (run (start 0x1F 0x8000000 [(.usr, 0, 0x8000201)] []) 32 0xE12FFF10)
    0x3F 0x8000200 false [] [] [] = true := by decide

/-- V44-2: MULS R0, R1, R2. -/
theorem test_mul : ends (run (start 0x3000001F 0x8000000 [(.usr, 1, 0x10000), (.usr, 2, 0x10000)] []) 32 0xE0100291)
    0x7000001F 0x800000C true [(.usr, 0, 0)] [] [] = true := by decide

/-- V44-6: MLAS R0, R1, R2, R3. -/
theorem test_mla : ends (run (start 0x3000001F 0x8000000 [(.usr, 1, 2), (.usr, 2, 3), (.usr, 3, 0xFFFFFFFA)] []) 32 0xE0303291)
    0x7000001F 0x800000C true [(.usr, 0, 0)] [] [] = true := by decide

/-- V44-8: UMULLS R0, R1, R2, R3. -/
theorem test_umull : ends (run (start 0x3000001F 0x8000000 [(.usr, 2, 0xFFFFFFFF), (.usr, 3, 0xFFFFFFFF)] []) 32 0xE0910392)
    0xB000001F 0x800000C true [(.usr, 0, 1), (.usr, 1, 0xFFFFFFFE)] [] [] = true := by decide

/-- V44-9: UMLAL R0, R1, R2, R3. -/
theorem test_umlal : ends (run (start 0x1F 0x8000000 [(.usr, 0, 0xFFFFFFFF), (.usr, 1, 0), (.usr, 2, 1), (.usr, 3, 1)] []) 32 0xE0A10392)
    0x1F 0x800000C true [(.usr, 0, 0), (.usr, 1, 1)] [] [] = true := by decide

/-- V44-11: SMULL R0, R1, R2, R3. -/
theorem test_smull : ends (run (start 0x1F 0x8000000 [(.usr, 2, 0xFFFFFFFE), (.usr, 3, 3)] []) 32 0xE0C10392)
    0x1F 0x800000C true [(.usr, 0, 0xFFFFFFFA), (.usr, 1, 0xFFFFFFFF)] [] [] = true := by decide

/-- V44-17: SMLALS R0, R1, R2, R3. -/
theorem test_smlal : ends (run (start 0x1F 0x8000000 [(.usr, 0, 0), (.usr, 1, 0), (.usr, 2, 0xFFFFFFFF), (.usr, 3, 1)] []) 32 0xE0F10392)
    0x8000001F 0x800000C true [(.usr, 0, 0xFFFFFFFF), (.usr, 1, 0xFFFFFFFF)] [] [] = true := by decide

/-- V46S-2: SWP R0, R1, [R2]. -/
theorem test_swp : ends (run (start 0x1F 0x8000000 [(.usr, 1, 0x55667788), (.usr, 2, 0x3000001)] [(0x3000000, 0x44332211)]) 32 0xE1020091)
    0x1F 0x800000C true [(.usr, 0, 0x11443322)] [(0x3000000, 0x55667788)] [] = true := by decide

/-- V46S-4: SWPB R0, R1, [R2]. -/
theorem test_swpb : ends (run (start 0x1F 0x8000000 [(.usr, 0, 0xFFFFFFFF), (.usr, 1, 0x12345680), (.usr, 2, 0x3000001)] [(0x3000000, 0x7F00)]) 32 0xE1420091)
    0x1F 0x800000C true [(.usr, 0, 0x7F)] [(0x3000000, 0x8000)] [] = true := by decide

/-- V45-28: STRH R0, [R1]. -/
theorem test_strh : ends (run (start 0x1F 0x8000000 [(.usr, 0, 0x12345678), (.usr, 1, 0x3000003)] []) 32 0xE1C100B0)
    0x1F 0x800000C true [] [(0x3000000, 0x56780000)] [] = true := by decide

/-- V45-24: LDRH R0, [R1, #1]. -/
theorem test_ldrh : ends (run (start 0x1F 0x8000000 [(.usr, 1, 0x2000000)] [(0x2000000, 0x44332211)]) 32 0xE1D100B1)
    0x1F 0x800000C true [(.usr, 0, 0x11000022)] [] [] = true := by decide

/-- V45-29: LDRSB R0, [R1, R2]. -/
theorem test_ldrsb : ends (run (start 0x1F 0x8000000 [(.usr, 1, 0x2000000), (.usr, 2, 0x10)] [(0x2000010, 0xFE)]) 32 0xE19100D2)
    0x1F 0x800000C true [(.usr, 0, 0xFFFFFFFE)] [] [] = true := by decide

/-- V45-33: LDRSH R0, [R1]. -/
theorem test_ldrsh : ends (run (start 0x1F 0x8000000 [(.usr, 1, 0x2000021)] [(0x2000020, 0x80FF)]) 32 0xE1D100F0)
    0x1F 0x800000C true [(.usr, 0, 0xFFFFFF80)] [] [] = true := by decide

/-- V47-7: (undefined: halfword format, L = 0, S = 1, H = 0). -/
theorem test_undefHalf : ends (run (start 0x1F 0x8000000 [] []) 32 0xE00000D0)
    0x1F 0x800000C true [] [] [⟨.undefinedEncoding, 0xE00000D0⟩] = true := by decide

/-- V47-6: (undefined: bits 27:23 = 00011, 7:4 = 1001). -/
theorem test_undefMul : ends (run (start 0x1F 0x8000000 [] []) 32 0xE1800090)
    0x1F 0x800000C true [] [] [⟨.undefinedEncoding, 0xE1800090⟩] = true := by decide

/-- V43-2: MRS R0, SPSR. -/
theorem test_mrs : ends (run ((start 0x92 0x8000000 [] []).setSpsrOf .irq (.ofWord 0x8000003F)) 32 0xE14F0000)
    0x92 0x800000C true [(.irq, 0, 0x8000003F)] [] [] = true := by decide

/-- V43-8: MSR CPSR_fc, R0. -/
theorem test_msr_cpsr : ends (run (start 0x10 0x8000000 [(.usr, 0, 0xF00000D3)] []) 32 0xE129F000)
    0xF0000010 0x800000C true [] [] [] = true := by decide

/-- V43-10: MSR SPSR_fc, R0. -/
theorem test_msr_spsr : ends (run ((start 0x92 0x8000000 [(.irq, 0, 0xA000001F)] []).setSpsrOf .irq (.ofWord 0)) 32 0xE169F000)
    0x92 0x800000C true [] [] [] = true ∧
    savedStatus (run ((start 0x92 0x8000000 [(.irq, 0, 0xA000001F)] []).setSpsrOf .irq (.ofWord 0)) 32 0xE169F000) .irq 0xA000001F = true := by decide

/-- V42-2: ANDS R0, R1, R2, LSR #1. -/
theorem test_and : ends (run (start 0x1000001F 0x8000000 [(.usr, 1, 0xFFFFFFFF), (.usr, 2, 1)] []) 32 0xE01100A2)
    0x7000001F 0x800000C true [(.usr, 0, 0)] [] [] = true := by decide

/-- V42-4: EORS R0, R1, R1. -/
theorem test_eor : ends (run (start 0xA000001F 0x8000000 [(.usr, 1, 0x12345678)] []) 32 0xE0310001)
    0x6000001F 0x800000C true [(.usr, 0, 0)] [] [] = true := by decide

/-- V42-33: SUBS PC, LR, #4. -/
theorem test_sub : ends (run ((start 0x92 0x8000000 [(.irq, 14, 0x8000108)] []).setSpsrOf .irq (.ofWord 0x8000001F)) 32 0xE25EF004)
    0x8000001F 0x8000104 false [] [] [] = true := by decide

/-- V40A-9: RSBS R0, R1, R2. -/
theorem test_rsb : ends (run (start 0x1F 0x8000000 [(.usr, 1, 0x80000000), (.usr, 2, 0)] []) 32 0xE0710002)
    0x9000001F 0x800000C true [(.usr, 0, 0x80000000)] [] [] = true := by decide

/-- V42-9: ADD R0, PC, PC, LSL R2. -/
theorem test_add : ends (run (start 0x1F 0x8000100 [(.usr, 2, 0)] []) 32 0xE08F021F)
    0x1F 0x800010C true [(.usr, 0, 0x10000210)] [] [] = true := by decide

/-- V40A-13: ADCS R0, R1, R2. -/
theorem test_adc : ends (run (start 0x2000001F 0x8000000 [(.usr, 1, 0), (.usr, 2, 0x7FFFFFFF)] []) 32 0xE0B10002)
    0x9000001F 0x800000C true [(.usr, 0, 0x80000000)] [] [] = true := by decide

/-- V40A-21: SBCS R0, R1, R2. -/
theorem test_sbc : ends (run (start 0x1F 0x8000000 [(.usr, 1, 0), (.usr, 2, 0x7FFFFFFF)] []) 32 0xE0D10002)
    0x8000001F 0x800000C true [(.usr, 0, 0x80000000)] [] [] = true := by decide

/-- V40A-24: RSCS R0, R1, R2. -/
theorem test_rsc : ends (run (start 0x1F 0x8000000 [(.usr, 1, 1), (.usr, 2, 0)] []) 32 0xE0F10002)
    0x8000001F 0x800000C true [(.usr, 0, 0xFFFFFFFE)] [] [] = true := by decide

/-- V42-16: TST R0, #1. -/
theorem test_tst : ends (run (start 0x1F 0x8000000 [(.usr, 0, 3)] []) 32 0xE310F001)
    0x1F 0x800000C true [(.usr, 0, 3)] [] [] = true := by decide

/-- V42-18: TEQ R0, R1. -/
theorem test_teq : ends (run (start 0x1F 0x8000000 [(.usr, 0, 0x80000000), (.usr, 1, 0)] []) 32 0xE1300001)
    0x8000001F 0x800000C true [] [] [] = true := by decide

/-- V42-21: CMP R0, R1. -/
theorem test_cmp : ends (run (start 0x1F 0x8000000 [(.usr, 0, 0x80000000), (.usr, 1, 1)] []) 32 0xE1500001)
    0x3000001F 0x800000C true [] [] [] = true := by decide

/-- V42-22: CMN R0, #1. -/
theorem test_cmn : ends (run (start 0x1F 0x8000000 [(.usr, 0, 0xFFFFFFFF)] []) 32 0xE3700001)
    0x6000001F 0x800000C true [] [] [] = true := by decide

/-- V42-23: ORR R0, R0, #0x80. -/
theorem test_orr : ends (run (start 0x1F 0x8000000 [(.usr, 0, 0x13)] []) 32 0xE3800080)
    0x1F 0x800000C true [(.usr, 0, 0x93)] [] [] = true := by decide

/-- V40-20: MOVS R0, R1, RRX. -/
theorem test_mov : ends (run (start 0x2000001F 0x8000000 [(.usr, 1, 2)] []) 32 0xE1B00061)
    0x8000001F 0x800000C true [(.usr, 0, 0x80000001)] [] [] = true := by decide

/-- V42-29: BICS R0, R1, #0xF000000. -/
theorem test_bic : ends (run (start 0x1F 0x8000000 [(.usr, 1, 0xFFFFFFFF)] []) 32 0xE3D1040F)
    0x8000001F 0x800000C true [(.usr, 0, 0xF0FFFFFF)] [] [] = true := by decide

/-- V42-31: MVNS R0, #0. -/
theorem test_mvn : ends (run (start 0x6000001F 0x8000000 [] []) 32 0xE3F00000)
    0xA000001F 0x800000C true [(.usr, 0, 0xFFFFFFFF)] [] [] = true := by decide

/-- V47-5: (undefined). -/
theorem test_undefMedia : ends (run (start 0x1F 0x8000000 [] []) 32 0xE6000010)
    0x1F 0x800000C true [] [] [⟨.undefinedEncoding, 0xE6000010⟩] = true := by decide

/-- V45-17: STR R1, [R1, #4]!. -/
theorem test_str : ends (run (start 0x1F 0x8000000 [(.usr, 1, 0x3000000)] []) 32 0xE5A11004)
    0x1F 0x800000C true [(.usr, 1, 0x3000004)] [(0x3000004, 0x3000000)] [] = true := by decide

/-- V45-2: LDR R0, [R1]. -/
theorem test_ldr : ends (run (start 0x1F 0x8000000 [(.usr, 1, 0x2000001)] [(0x2000000, 0x44332211)]) 32 0xE5910000)
    0x1F 0x800000C true [(.usr, 0, 0x11443322)] [] [] = true := by decide

/-- V45-21: STRB R0, [R1]. -/
theorem test_strb : ends (run (start 0x1F 0x8000000 [(.usr, 0, 0x12345678), (.usr, 1, 0x3000001)] []) 32 0xE5C10000)
    0x1F 0x800000C true [] [(0x3000000, 0x7800)] [] = true := by decide

/-- V45-20: LDRB R0, [R1, #1]. -/
theorem test_ldrb : ends (run (start 0x1F 0x8000000 [(.usr, 1, 0x2000000), (.usr, 0, 0xFFFFFFFF)] [(0x2000000, 0x44332211)]) 32 0xE5D10001)
    0x1F 0x800000C true [(.usr, 0, 0x22)] [] [] = true := by decide

/-- V45-22: LDRT R0, [R1], #4. -/
theorem test_ldrt : ends (run (start 0x1F 0x8000000 [(.usr, 1, 0x2000000)] [(0x2000000, 0x44332211)]) 32 0xE4B10004)
    0x1F 0x800000C true [(.usr, 0, 0x44332211), (.usr, 1, 0x2000004)] [] [] = true := by decide

/-- V46-10: STMIA R1!, {R0, R1}. -/
theorem test_stm_base_listed : ends (run (start 0x1F 0x8000000 [(.usr, 1, 0x3000000), (.usr, 0, 0xA0)] []) 32 0xE8A10003)
    0x1F 0x800000C true [(.usr, 1, 0x3000008)] [(0x3000000, 0xA0), (0x3000004, 0x3000008)] [] = true := by decide

/-- V46-17: STMIA SP, {SP, LR}^. -/
theorem test_stm_user_bank : ends (run (start 0x92 0x8000000 [(.irq, 13, 0x3000000), (.irq, 14, 0xEEEE), (.usr, 13, 0x1111), (.usr, 14, 0x2222)] []) 32 0xE8CD6000)
    0x92 0x800000C true [] [(0x3000000, 0x1111), (0x3000004, 0x2222)] [] = true := by decide

/-- V46-15: LDMIA SP!, {R0, PC}^. -/
theorem test_ldm_restore : ends (run ((start 0x92 0x8000000 [(.irq, 13, 0x3000000)] [(0x3000000, 0x77), (0x3000004, 0x8000203)]).setSpsrOf .irq (.ofWord 0x4000003F)) 32 0xE8FD8001)
    0x4000003F 0x8000202 false [(.usr, 0, 0x77), (.irq, 13, 0x3000008)] [] [] = true := by decide

/-- V46-18: LDMIA R0!, {}. -/
theorem test_ldm_empty : ends (run (start 0x1F 0x8000000 [(.usr, 0, 0x3000000)] [(0x3000000, 0x8000400)]) 32 0xE8B00000)
    0x1F 0x8000400 false [(.usr, 0, 0x3000040)] [] [⟨.unpredictable .emptyList, 0xE8B00000⟩] = true := by decide

/-- V41-5: BNE 0x08000048. -/
theorem test_b : ends (run (start 0x1F 0x8000000 [] []) 32 0x1A000010)
    0x1F 0x8000048 false [] [] [] = true := by decide

/-- V41-7: BL 0x080000FC. -/
theorem test_bl : ends (run (start 0x1F 0x8000100 [] []) 32 0xEBFFFFFD)
    0x1F 0x80000FC false [(.usr, 14, 0x8000104)] [] [] = true := by decide

/-- V47-11: STC p0, c0, [R0, #4]!. -/
theorem test_stc : ends (run (start 0x1F 0x8000000 [(.usr, 0, 0x3000000)] []) 32 0xEDA00001)
    0x1F 0x800000C true [(.usr, 0, 0x3000000)] [(0x3000004, 0)] [⟨.coprocessor, 0xEDA00001⟩] = true := by decide

/-- V47-10: LDC p0, c0, [R0]. -/
theorem test_ldc : ends (run (start 0x1F 0x8000000 [(.usr, 0, 0x3000000)] []) 32 0xED900000)
    0x1F 0x800000C true [(.usr, 0, 0x3000000)] [] [⟨.coprocessor, 0xED900000⟩] = true := by decide

/-- V47-9: CDP p0, 0, c0, c0, c0, 0. -/
theorem test_cdp : ends (run (start 0x1F 0x8000000 [] []) 32 0xEE000000)
    0x1F 0x800000C true [] [] [⟨.coprocessor, 0xEE000000⟩] = true := by decide

/-- V47-13: MCR p15, 0, R0, c0, c0, 0. -/
theorem test_mcr : ends (run (start 0x1F 0x8000000 [(.usr, 0, 0x55)] []) 32 0xEE000F10)
    0x1F 0x800000C true [(.usr, 0, 0x55)] [] [⟨.coprocessor, 0xEE000F10⟩] = true := by decide

/-- V47-12: MRC p15, 0, R0, c0, c0, 0. -/
theorem test_mrc : ends (run (start 0x1F 0x8000000 [(.usr, 0, 0x55)] []) 32 0xEE100F10)
    0x1F 0x800000C true [(.usr, 0, 0x55)] [] [⟨.coprocessor, 0xEE100F10⟩] = true := by decide

/-- V47-1: SWI 5. -/
theorem test_swi : ends (run (start 0x6000001F 0x8000120 [] []) 32 0xEF000005)
    0x60000093 8 false [(.svc, 14, 0x8000124)] [] [] = true ∧
    savedStatus (run (start 0x6000001F 0x8000120 [] []) 32 0xEF000005) .svc 0x6000001F = true := by decide

/-- V42-35: ADDEQS R0, R1, R2. -/
theorem test_failed_condition : ends (run (start 0x1F 0x8000000 [(.usr, 1, 2), (.usr, 2, 3)] []) 32 0x00910002)
    0x1F 0x800000C true [(.usr, 0, 0)] [] [] = true := by decide

/-- V42-36: MOVNV R0, #1. -/
theorem test_reserved_condition : ends (run (start 0x1F 0x8000000 [] []) 32 0xF3A00001)
    0x1F 0x800000C true [(.usr, 0, 1)] [] [⟨.condReserved, 0xF3A00001⟩] = true := by decide

/-- V48-9: ADD R0, R1, R2. -/
theorem test_tAddReg : ends (run (start 0x3F 0x8000000 [(.usr, 1, 0x7FFFFFFF), (.usr, 2, 1)] []) 16 0x1888)
    0x9000003F 0x8000006 true [(.usr, 0, 0x80000000)] [] [] = true := by decide

/-- V48-10: SUB R0, R1, R2. -/
theorem test_tSubReg : ends (run (start 0x3F 0x8000000 [(.usr, 1, 5), (.usr, 2, 5)] []) 16 0x1A88)
    0x6000003F 0x8000006 true [(.usr, 0, 0)] [] [] = true := by decide

/-- V48-12: ADD R0, R1, #7. -/
theorem test_tAddImm3 : ends (run (start 0x3F 0x8000000 [(.usr, 1, 0xFFFFFFFC)] []) 16 0x1DC8)
    0x2000003F 0x8000006 true [(.usr, 0, 3)] [] [] = true := by decide

/-- V48-14: SUB R0, R1, #1. -/
theorem test_tSubImm3 : ends (run (start 0x3F 0x8000000 [(.usr, 1, 0x80000000)] []) 16 0x1E48)
    0x3000003F 0x8000006 true [(.usr, 0, 0x7FFFFFFF)] [] [] = true := by decide

/-- V48-2: LSL R0, R1, #0. -/
theorem test_tLslImm : ends (run (start 0x2000003F 0x8000000 [(.usr, 1, 0x80000000)] []) 16 0x0008)
    0xA000003F 0x8000006 true [(.usr, 0, 0x80000000)] [] [] = true := by decide

/-- V48-5: LSR R0, R1, #32. -/
theorem test_tLsrImm : ends (run (start 0x3F 0x8000000 [(.usr, 1, 0x80000000)] []) 16 0x0808)
    0x6000003F 0x8000006 true [(.usr, 0, 0)] [] [] = true := by decide

/-- V48-7: ASR R0, R1, #32. -/
theorem test_tAsrImm : ends (run (start 0x3F 0x8000000 [(.usr, 1, 0x80000000)] []) 16 0x1008)
    0xA000003F 0x8000006 true [(.usr, 0, 0xFFFFFFFF)] [] [] = true := by decide

/-- V48-15: MOV R0, #0. -/
theorem test_tMovImm : ends (run (start 0xB000003F 0x8000000 [(.usr, 0, 0x55)] []) 16 0x2000)
    0x7000003F 0x8000006 true [(.usr, 0, 0)] [] [] = true := by decide

/-- V48-18: CMP R0, #255. -/
theorem test_tCmpImm : ends (run (start 0x3F 0x8000000 [(.usr, 0, 0)] []) 16 0x28FF)
    0x8000003F 0x8000006 true [(.usr, 0, 0)] [] [] = true := by decide

/-- V48-19: ADD R0, #255. -/
theorem test_tAddImm8 : ends (run (start 0x3F 0x8000000 [(.usr, 0, 0xFFFFFF01)] []) 16 0x30FF)
    0x6000003F 0x8000006 true [(.usr, 0, 0)] [] [] = true := by decide

/-- V48-20: SUB R0, #1. -/
theorem test_tSubImm8 : ends (run (start 0x3F 0x8000000 [(.usr, 0, 0)] []) 16 0x3801)
    0x8000003F 0x8000006 true [(.usr, 0, 0xFFFFFFFF)] [] [] = true := by decide

/-- V48A-1: AND R0, R1. -/
theorem test_tAnd : ends (run (start 0xB000003F 0x8000000 [(.usr, 0, 0xF0F0F0F0), (.usr, 1, 0xF0F0F0F)] []) 16 0x4008)
    0x7000003F 0x8000006 true [(.usr, 0, 0)] [] [] = true := by decide

/-- V48A-2: EOR R0, R1. -/
theorem test_tEor : ends (run (start 0x3000003F 0x8000000 [(.usr, 0, 0xFFFF0000), (.usr, 1, 0x7FFF0000)] []) 16 0x4048)
    0xB000003F 0x8000006 true [(.usr, 0, 0x80000000)] [] [] = true := by decide

/-- V48A-6: LSL R0, R1. -/
theorem test_tLsl : ends (run (start 0x3F 0x8000000 [(.usr, 0, 0x80000001), (.usr, 1, 0x20)] []) 16 0x4088)
    0x6000003F 0x8000006 true [(.usr, 0, 0)] [] [] = true := by decide

/-- V48A-9: LSR R0, R1. -/
theorem test_tLsr : ends (run (start 0x2000003F 0x8000000 [(.usr, 0, 0x80000000), (.usr, 1, 0x21)] []) 16 0x40C8)
    0x4000003F 0x8000006 true [(.usr, 0, 0)] [] [] = true := by decide

/-- V48A-12: ASR R0, R1. -/
theorem test_tAsr : ends (run (start 0x3F 0x8000000 [(.usr, 0, 0x80000000), (.usr, 1, 0xC8)] []) 16 0x4108)
    0xA000003F 0x8000006 true [(.usr, 0, 0xFFFFFFFF)] [] [] = true := by decide

/-- V48A-14: ADC R0, R1. -/
theorem test_tAdc : ends (run (start 0x2000003F 0x8000000 [(.usr, 0, 0), (.usr, 1, 0x7FFFFFFF)] []) 16 0x4148)
    0x9000003F 0x8000006 true [(.usr, 0, 0x80000000)] [] [] = true := by decide

/-- V48A-17: SBC R0, R1. -/
theorem test_tSbc : ends (run (start 0x3F 0x8000000 [(.usr, 0, 0), (.usr, 1, 0x7FFFFFFF)] []) 16 0x4188)
    0x8000003F 0x8000006 true [(.usr, 0, 0x80000000)] [] [] = true := by decide

/-- V48A-19: ROR R0, R1. -/
theorem test_tRor : ends (run (start 0x3F 0x8000000 [(.usr, 0, 0x80000000), (.usr, 1, 0x20)] []) 16 0x41C8)
    0xA000003F 0x8000006 true [(.usr, 0, 0x80000000)] [] [] = true := by decide

/-- V48A-22: TST R0, R1. -/
theorem test_tTst : ends (run (start 0x7000003F 0x8000000 [(.usr, 0, 0x80000000), (.usr, 1, 0x80000000)] []) 16 0x4208)
    0xB000003F 0x8000006 true [(.usr, 0, 0x80000000)] [] [] = true := by decide

/-- V48A-24: NEG R0, R1. -/
theorem test_tNeg : ends (run (start 0x3F 0x8000000 [(.usr, 1, 0x80000000)] []) 16 0x4248)
    0x9000003F 0x8000006 true [(.usr, 0, 0x80000000)] [] [] = true := by decide

/-- V48A-26: CMP R0, R1. -/
theorem test_tCmp : ends (run (start 0x3F 0x8000000 [(.usr, 0, 0x80000000), (.usr, 1, 1)] []) 16 0x4288)
    0x3000003F 0x8000006 true [(.usr, 0, 0x80000000)] [] [] = true := by decide

/-- V48A-27: CMN R0, R1. -/
theorem test_tCmn : ends (run (start 0x3F 0x8000000 [(.usr, 0, 0xFFFFFFFF), (.usr, 1, 1)] []) 16 0x42C8)
    0x6000003F 0x8000006 true [(.usr, 0, 0xFFFFFFFF)] [] [] = true := by decide

/-- V48A-28: ORR R0, R1. -/
theorem test_tOrr : ends (run (start 0x3000003F 0x8000000 [(.usr, 0, 0x80000000), (.usr, 1, 1)] []) 16 0x4308)
    0xB000003F 0x8000006 true [(.usr, 0, 0x80000001)] [] [] = true := by decide

/-- V48A-30: MUL R0, R1. -/
theorem test_tMul : ends (run (start 0x2000003F 0x8000000 [(.usr, 0, 0xFFFFFFFF), (.usr, 1, 3)] []) 16 0x4348)
    0xA000003F 0x8000006 true [(.usr, 0, 0xFFFFFFFD)] [] [] = true := by decide

/-- V48A-31: BIC R0, R1. -/
theorem test_tBic : ends (run (start 0x3000003F 0x8000000 [(.usr, 0, 0xFFFFFFFF), (.usr, 1, 0x7FFFFFFF)] []) 16 0x4388)
    0xB000003F 0x8000006 true [(.usr, 0, 0x80000000)] [] [] = true := by decide

/-- V48A-32: MVN R0, R1. -/
theorem test_tMvn : ends (run (start 0xB000003F 0x8000000 [(.usr, 0, 0x99), (.usr, 1, 0xFFFFFFFF)] []) 16 0x43C8)
    0x7000003F 0x8000006 true [(.usr, 0, 0)] [] [] = true := by decide

/-- V48B-4: ADD PC, R0. -/
theorem test_tAddHi : ends (run (start 0x3F 0x8000100 [(.usr, 0, 0x11)] []) 16 0x4487)
    0x3F 0x8000114 false [] [] [] = true := by decide

/-- V48B-6: CMP R0, R8. -/
theorem test_tCmpHi : ends (run (start 0x3F 0x8000000 [(.usr, 0, 5), (.usr, 8, 6)] []) 16 0x4540)
    0x8000003F 0x8000006 true [(.usr, 0, 5)] [] [] = true := by decide

/-- V48B-9: MOV PC, LR. -/
theorem test_tMovHi : ends (run (start 0x3F 0x8000000 [(.usr, 14, 0x8000125)] []) 16 0x46F7)
    0x3F 0x8000124 false [] [] [] = true := by decide

/-- V48B-16: BX PC. -/
theorem test_tBx : ends (run (start 0x3F 0x8000102 [] []) 16 0x4778)
    0x1F 0x8000104 false [] [] [] = true := by decide

/-- V49-2: LDR R0, [PC, #4]. -/
theorem test_tLdrPc : ends (run (start 0x3F 0x8000102 [] [(0x8000104, 0x22221111), (0x8000108, 0xDEADBEEF)]) 16 0x4801)
    0x3F 0x8000108 true [(.usr, 0, 0xDEADBEEF)] [] [] = true := by decide

/-- V49-4: STR R0, [R1, R2]. -/
theorem test_tStrReg : ends (run (start 0x3F 0x8000000 [(.usr, 0, 0xAABBCCDD), (.usr, 1, 0x3000000), (.usr, 2, 6)] []) 16 0x5088)
    0x3F 0x8000006 true [] [(0x3000004, 0xAABBCCDD)] [] = true := by decide

/-- V49-5: STRB R0, [R1, R2]. -/
theorem test_tStrbReg : ends (run (start 0x3F 0x8000000 [(.usr, 0, 0xAABBCCDD), (.usr, 1, 0x3000000), (.usr, 2, 6)] []) 16 0x5488)
    0x3F 0x8000006 true [] [(0x3000004, 0xDD0000)] [] = true := by decide

/-- V49-7: LDR R0, [R1, R2]. -/
theorem test_tLdrReg : ends (run (start 0x3F 0x8000000 [(.usr, 1, 0x2000000), (.usr, 2, 1)] [(0x2000000, 0x44332211)]) 16 0x5888)
    0x3F 0x8000006 true [(.usr, 0, 0x11443322)] [] [] = true := by decide

/-- V49-9: LDRB R0, [R1, R2]. -/
theorem test_tLdrbReg : ends (run (start 0x3F 0x8000000 [(.usr, 0, 0xFFFFFFFF), (.usr, 1, 0x2000000), (.usr, 2, 3)] [(0x2000000, 0x44332211)]) 16 0x5C88)
    0x3F 0x8000006 true [(.usr, 0, 0x44)] [] [] = true := by decide

/-- V49-10: STRH R0, [R1, R2]. -/
theorem test_tStrhReg : ends (run (start 0x3F 0x8000000 [(.usr, 0, 0xAABBCCDD), (.usr, 1, 0x3000000), (.usr, 2, 3)] []) 16 0x5288)
    0x3F 0x8000006 true [] [(0x3000000, 0xCCDD0000)] [] = true := by decide

/-- V49-12: LDRH R0, [R1, R2]. -/
theorem test_tLdrhReg : ends (run (start 0x3F 0x8000000 [(.usr, 1, 0x2000000), (.usr, 2, 1)] [(0x2000000, 0x44332211)]) 16 0x5A88)
    0x3F 0x8000006 true [(.usr, 0, 0x11000022)] [] [] = true := by decide

/-- V49-13: LDSB R0, [R1, R2]. -/
theorem test_tLdsbReg : ends (run (start 0x3F 0x8000000 [(.usr, 1, 0x2000000), (.usr, 2, 1)] [(0x2000000, 0x8000)]) 16 0x5688)
    0x3F 0x8000006 true [(.usr, 0, 0xFFFFFF80)] [] [] = true := by decide

/-- V49-15: LDSH R0, [R1, R2]. -/
theorem test_tLdshReg : ends (run (start 0x3F 0x8000000 [(.usr, 1, 0x2000000), (.usr, 2, 3)] [(0x2000000, 0x80010000)]) 16 0x5E88)
    0x3F 0x8000006 true [(.usr, 0, 0xFFFFFF80)] [] [] = true := by decide

/-- V49-16: STR R0, [R1, #124]. -/
theorem test_tStrImm : ends (run (start 0x3F 0x8000000 [(.usr, 0, 0x600D), (.usr, 1, 0x3000000)] []) 16 0x67C8)
    0x3F 0x8000006 true [] [(0x300007C, 0x600D)] [] = true := by decide

/-- V49-18: LDR R0, [R1, #0]. -/
theorem test_tLdrImm : ends (run (start 0x3F 0x8000000 [(.usr, 1, 0x2000002)] [(0x2000000, 0x44332211)]) 16 0x6808)
    0x3F 0x8000006 true [(.usr, 0, 0x22114433)] [] [] = true := by decide

/-- V49-19: STRB R0, [R1, #31]. -/
theorem test_tStrbImm : ends (run (start 0x3F 0x8000000 [(.usr, 0, 0x1FF), (.usr, 1, 0x3000000)] []) 16 0x77C8)
    0x3F 0x8000006 true [] [(0x300001C, 0xFF000000)] [] = true := by decide

/-- V49-20: LDRB R0, [R1, #2]. -/
theorem test_tLdrbImm : ends (run (start 0x3F 0x8000000 [(.usr, 1, 0x2000000)] [(0x2000000, 0x44332211)]) 16 0x7888)
    0x3F 0x8000006 true [(.usr, 0, 0x33)] [] [] = true := by decide

/-- V49-21: STRH R0, [R1, #62]. -/
theorem test_tStrhImm : ends (run (start 0x3F 0x8000000 [(.usr, 0, 0xAABBCCDD), (.usr, 1, 0x3000000)] []) 16 0x87C8)
    0x3F 0x8000006 true [] [(0x300003C, 0xCCDD0000)] [] = true := by decide

/-- V49-23: LDRH R0, [R1, #0]. -/
theorem test_tLdrhImm : ends (run (start 0x3F 0x8000000 [(.usr, 1, 0x2000003)] [(0x2000000, 0x44332211)]) 16 0x8808)
    0x3F 0x8000006 true [(.usr, 0, 0x33000044)] [] [] = true := by decide

/-- V49-24: STR R0, [SP, #1020]. -/
theorem test_tStrSp : ends (run (start 0x3F 0x8000000 [(.usr, 0, 0x77), (.usr, 13, 0x3000000)] []) 16 0x90FF)
    0x3F 0x8000006 true [] [(0x30003FC, 0x77)] [] = true := by decide

/-- V49-26: LDR R2, [SP, #0]. -/
theorem test_tLdrSp : ends (run (start 0x3F 0x8000000 [(.usr, 13, 0x2000001)] [(0x2000000, 0x44332211)]) 16 0x9A00)
    0x3F 0x8000006 true [(.usr, 2, 0x11443322)] [] [] = true := by decide

/-- V49-28: ADD R0, PC, #4. -/
theorem test_tAddPc : ends (run (start 0x3F 0x8000102 [] []) 16 0xA001)
    0x3F 0x8000108 true [(.usr, 0, 0x8000108)] [] [] = true := by decide

/-- V49-29: ADD R0, SP, #1020. -/
theorem test_tAddSp : ends (run (start 0x3F 0x8000000 [(.usr, 13, 0x3007F00)] []) 16 0xA8FF)
    0x3F 0x8000006 true [(.usr, 0, 0x30082FC)] [] [] = true := by decide

/-- V49-30: ADD SP, #508. -/
theorem test_tAddSpImm : ends (run (start 0x3F 0x8000000 [(.usr, 13, 0x3007F00)] []) 16 0xB07F)
    0x3F 0x8000006 true [(.usr, 13, 0x30080FC)] [] [] = true := by decide

/-- V49-31: ADD SP, #-4. -/
theorem test_tSubSpImm : ends (run (start 0x3F 0x8000000 [(.usr, 13, 0x3007F00)] []) 16 0xB081)
    0x3F 0x8000006 true [(.usr, 13, 0x3007EFC)] [] [] = true := by decide

/-- V49A-2: PUSH {R0, LR}. -/
theorem test_tPush : ends (run (start 0x3F 0x8000000 [(.usr, 0, 0xA0), (.usr, 14, 0x8000101), (.usr, 13, 0x3007F00)] []) 16 0xB501)
    0x3F 0x8000006 true [(.usr, 13, 0x3007EF8)] [(0x3007EF8, 0xA0), (0x3007EFC, 0x8000101)] [] = true := by decide

/-- V49A-5: POP {R0, PC}. -/
theorem test_tPop : ends (run (start 0x3F 0x8000000 [(.usr, 13, 0x3007EF8)] [(0x3007EF8, 0xB0), (0x3007EFC, 0x8000201)]) 16 0xBD01)
    0x3F 0x8000200 false [(.usr, 0, 0xB0), (.usr, 13, 0x3007F00)] [] [] = true := by decide

/-- V49B-18: (bits 15:12 = 1011, not format 13 or 14). -/
theorem test_tUndefB : ends (run (start 0x3F 0x8000100 [] []) 16 0xBE00)
    0x3F 0x8000106 true [] [] [⟨.undefinedEncoding, 0xBE00⟩] = true := by decide

/-- V49A-10: STMIA R1!, {R0, R1}. -/
theorem test_tStmia : ends (run (start 0x3F 0x8000000 [(.usr, 0, 0xA0), (.usr, 1, 0x3000000)] []) 16 0xC103)
    0x3F 0x8000006 true [(.usr, 1, 0x3000008)] [(0x3000000, 0xA0), (0x3000004, 0x3000008)] [] = true := by decide

/-- V49A-13: LDMIA R0!, {R0, R1}. -/
theorem test_tLdmia : ends (run (start 0x3F 0x8000000 [(.usr, 0, 0x3000000)] [(0x3000000, 0x11), (0x3000004, 0x22)]) 16 0xC803)
    0x3F 0x8000006 true [(.usr, 0, 0x11), (.usr, 1, 0x22)] [] [] = true := by decide

/-- V49B-7: SWI 7. -/
theorem test_tSwi : ends (run (start 0x60000030 0x8000100 [] []) 16 0xDF07)
    0x60000093 8 false [(.svc, 14, 0x8000102)] [] [] = true ∧
    savedStatus (run (start 0x60000030 0x8000100 [] []) 16 0xDF07) .svc 0x60000030 = true := by decide

/-- V49B-6: (cond = 1110). -/
theorem test_tUndefDE : ends (run (start 0x3F 0x8000100 [] []) 16 0xDE00)
    0x3F 0x8000106 true [] [] [⟨.undefinedEncoding, 0xDE00⟩] = true := by decide

/-- V49B-4: BLT .-252. -/
theorem test_tBcond : ends (run (start 0x8000003F 0x8000100 [] []) 16 0xDB80)
    0x8000003F 0x8000004 false [] [] [] = true := by decide

/-- V49B-9: B .-2044. -/
theorem test_tB : ends (run (start 0x3F 0x8001000 [] []) 16 0xE400)
    0x3F 0x8000804 false [] [] [] = true := by decide

/-- V49B-16: (bits 15:11 = 11101). -/
theorem test_tUndefE8 : ends (run (start 0x3F 0x8000100 [] []) 16 0xE800)
    0x3F 0x8000106 true [] [] [⟨.undefinedEncoding, 0xE800⟩] = true := by decide

/-- V49B-12: BL prefix, offset_hi = 0x7FF. -/
theorem test_tBlPrefix : ends (run (start 0x3F 0x8000100 [] []) 16 0xF7FF)
    0x3F 0x8000106 true [(.usr, 14, 0x7FFF104)] [] [] = true := by decide

/-- V49B-13: BL suffix, offset_lo = 2. -/
theorem test_tBlSuffix : ends (run (start 0x3F 0x8000102 [(.usr, 14, 0x8001104)] []) 16 0xF802)
    0x3F 0x8001108 false [(.usr, 14, 0x8000105)] [] [] = true := by decide

/-- By hand from R255: STRT R0, [R1], #4. -/
theorem test_strt : ends (run (start 0x1F 0x8000000 [(.usr, 0, 0xAABBCCDD), (.usr, 1, 0x3000004)] []) 32 0xE4A10004)
    0x1F 0x800000C true [(.usr, 1, 0x3000008)] [(0x3000004, 0xAABBCCDD), (0x3000008, 0)] [] = true := by decide

/-- By hand from R255: STRBT R0, [R1], #4. -/
theorem test_strbt : ends (run (start 0x1F 0x8000000 [(.usr, 0, 0x12345678), (.usr, 1, 0x3000001)] []) 32 0xE4E10004)
    0x1F 0x800000C true [(.usr, 1, 0x3000005)] [(0x3000000, 0x7800)] [] = true := by decide

/-- By hand from R255: LDRBT R0, [R1], #-4. -/
theorem test_ldrbt : ends (run (start 0x1F 0x8000000 [(.usr, 1, 0x2000003)] [(0x2000000, 0x44332211)]) 32 0xE4710004)
    0x1F 0x800000C true [(.usr, 0, 0x44), (.usr, 1, 0x1FFFFFF)] [] [] = true := by decide

/-! ## Interrupts, devices, reset -/

/-- V60-3: an IRQ in THUMB state with a valid pipeline. -/
theorem test_irq_entry :
    let o := step { State.reset with cpsr := .ofWord 0x30, r15 := 0x08000104, pipeValid := true, ie := 0x1000, iflag := 0x1000, ime := true }
    ends o 0x92 0x18 false [(.irq, 14, 0x08000104)] [] [] = true ∧ savedStatus o .irq 0x30 = true := by decide

/-- V42-33 is `test_sub`: the return from an IRQ. V64-1: a write to HALTCNT halts. -/
theorem test_halt : after (run ({ (start 0x1F 0x8000000 [(.usr, 1, 0x4000000)] []) with ie := 8 }) 32 0xE5C10301)
    (fun t => t.halted && t.r15 == 0x800000C) = true := by decide

/-- V64-3, V64-4: a request releases the halt when it is enabled. -/
theorem test_halt_release : let s : State := { State.reset with halted := true, ie := 8 }
    (s.request 0).halted = true ∧ ((s.request 0).request 3).halted = false ∧ ((s.request 0).request 3).iflag = 9 := by decide

/-- V60-9, V60-10: IF bits are cleared by writing 1, byte by byte; IE is written in the same word. -/
theorem test_interrupt_registers :
    ({ State.reset with iflag := 0x1101 }.memWrite 0x04000203 1 0x10).iflag = 0x0101 ∧
    ({ State.reset with iflag := 0x0101 }.memWrite 0x04000200 4 0x0001FFFF).iflag = 0x0100 ∧
    ({ State.reset with iflag := 0x0101 }.memWrite 0x04000200 4 0x0001FFFF).ie = 0xFFFF := by decide

/-- V20-1, V20-2, V20-9: little-endian bytes and the EWRAM mirror. -/
theorem test_bus_ram : let s := State.reset.memWrite 0x02000000 4 0xDEADBEEF
    (s.memRead 0x02000001 1).1 = 0xBE ∧ (s.memRead 0x02000002 2).1 = 0xDEAD ∧ (s.memRead 0x02FC0000 4).1 = 0xDEADBEEF := by decide

/-- V20-12, V20-24, V20-26: unmapped and read-only accesses. -/
theorem test_bus_edges : (State.reset.memRead 0x01000000 4).2.diags = [⟨.unmappedRead, 0x01000000⟩] ∧
    (State.reset.memWrite 0x10000000 4 1).diags = [⟨.unmappedWrite, 0x10000000⟩] ∧
    (State.reset.memWrite 0x0A000000 4 1).diags = [⟨.readonlyWrite, 0x0A000000⟩] := by decide

/-- V61-7, V61-8: the latch of a DMA enable edge. -/
theorem test_dma_latch : let s := ((State.reset.memWrite 0x040000B0 4 0xFFFFFFFF).memWrite 0x040000B4 4 0xFFFFFFFF).memWrite 0x040000B8 2 0x4005
    let t := s.memWrite 0x040000BA 2 0x8000
    t.dma[0].curSrc = 0x07FFFFFF ∧ t.dma[0].curDst = 0x07FFFFFF ∧ t.dma[0].remaining = 5 ∧ t.dma[0].delay = 2 ∧
    (State.reset.memWrite 0x040000DE 2 0x8000).dma[3].remaining = 65536 := by decide

/-- V61-4 with a count of 2: the transfer, the cleared enable bit, the end IRQ. -/
theorem test_dma_transfer :
    let s := start 0x1F 0x8000000 [] [(0x2000000, 0xA0000000), (0x2000004, 0xA0000001)]
    let ch : DmaChannel := { DmaChannel.reset with cntH := 0xC400, curSrc := 0x02000000, curDst := 0x03000000, remaining := 2, delay := 1 }
    after (step { s with halted := true, dma := s.dma.set 0 ch }) (fun t => (t.memRead 0x03000000 4).1 == 0xA0000000 &&
      (t.memRead 0x03000004 4).1 == 0xA0000001 && t.dma[0].cntH == 0x4400 && t.iflag == 0x0100 &&
      t.dma[0].curSrc == 0x02000008 && t.dma[0].curDst == 0x03000008) = true := by decide

/-- R472: the first of two words written to the channel's own count and control clears the enable bit, so the second is not
transferred and there is no end IRQ. -/
theorem test_dma_stops_itself :
    let ch : DmaChannel := { DmaChannel.reset with cntH := 0xC440, curSrc := 0x02000000, curDst := 0x040000B8, remaining := 2, delay := 1 }
    after (step { start 0x1F 0x8000000 [] [] with halted := true, dma := State.reset.dma.set 0 ch }) (fun t =>
      t.dma[0].cntH == 0 && t.dma[0].remaining == 1 && t.dma[0].curSrc == 0x02000004 && t.iflag == 0) = true := by decide

/-- V62-9: one cycle overflows timer 0, which ticks timer 1, which overflows and ticks timer 2. -/
theorem test_timer_cascade :
    let s := { State.reset with
      halted := true, timers := #v[⟨0xFFFF, 0xFFFF, 0x00C0, 0⟩, ⟨0xFFFF, 0xFFFF, 0x00C4, 0⟩, ⟨7, 7, 0x00C4, 0⟩, .reset] }
    after (step s) (fun t => t.timers[0].counter == 0xFFFF && t.timers[1].counter == 0xFFFF && t.timers[2].counter == 8 &&
      t.iflag == 0x18) = true := by decide

/-- V63-2: HBlank at cycle 960. V63-1 without the rendered line: the VBlank line, its flag and its request. -/
theorem test_lcd :
    (let t := { State.reset with lcd := { Lcd.reset with cycle := 959, dispstat := 0x10 } }.lcdCycle
     t.iflag = 2 ∧ t.lcd.readDispstat = 0x16) ∧
    (let t := { State.reset with lcd := { Lcd.reset with scanline := 159, dispstat := 8 } }.vblankStart
     t.iflag = 1 ∧ t.lcd.vblank = true ∧ t.vblankPulse = true) := by decide

/-- By hand from R494: a pixel of mode 3; a 4 bpp tile of background 0, flipped horizontally, with palette bank 2. -/
theorem test_rendering :
    (let s := { (State.reset.memWrite 0x0600000A 2 0x7C1F) with lcd := { Lcd.reset with dispcnt := 3 } }
     s.pixelColour 5 0 = 0x7C1F) ∧
    (let s := ((State.reset.memWrite 0x06000800 2 0x2401).memWrite 0x06000020 1 0x53).memWrite 0x0500004A 2 0x1234
     let v := { s with lcd := { Lcd.reset with dispcnt := 0x100, bgcnt := .replicate 4 0x0100 } }
     v.pixelColour 6 0 = 0x1234 ∧ v.pixelColour 5 0 = 0) := by decide

/-- V65-2: KEYCNT with AND over A and B. -/
theorem test_keys : let s := { State.reset with keycnt := 0xC003, keyInput := [1, 3] }
    s.sampleKeys.iflag = 0 ∧ s.sampleKeys.sampleKeys.iflag = 0x1000 ∧ s.sampleKeys.sampleKeys.readKeyinput = 0x03FC := by decide

/-- V70-1 to V70-3, V70-6, V70-7. -/
theorem test_reset : State.reset.r15 = 0x08000000 ∧ State.reset.cpsr.toWord = 0x1F ∧ State.reset.pipeValid = false ∧
    State.reset.readBank .usr 13 = 0x03007F00 ∧ State.reset.readBank .irq 13 = 0x03007FA0 ∧
    State.reset.readBank .svc 13 = 0x03007FE0 ∧ State.reset.readBank .und 13 = 0 ∧ State.reset.lcd.readDispstat = 4 ∧
    State.reset.readKeyinput = 0x03FF := by decide

/-- V70-4, V70-5: with a BIOS image. -/
theorem test_reset_bios : let s := State.resetWith { Config.defaultParams with biosPresent := true } [] none []
    s.r15 = 0 ∧ s.cpsr.toWord = 0xD3 ∧ s.readBank .usr 13 = 0 := by decide

/-! ## Witnesses: the hypotheses of the obligations can be met, each clause at a boundary -/

/-- Reset with R1 = `v`. -/
def withR1 (v : Word) : State := State.reset.writeReg 1 v

/-- In usr mode. -/
def inUsr : State := State.reset.setCpsr (.ofWord 0x10)

/-- Two words of RAM, no I/O register and no save device among them. -/
theorem ram_of_isRam {a : Word} {n : Nat} (h : ∀ k < n, isRam (a + BitVec.ofNat 32 k) = true) :
    (∀ k < n, ∀ o, region (a + BitVec.ofNat 32 k) ≠ .io o) ∧ (∀ k < n, ∀ o, region (a + BitVec.ofNat 32 k) ≠ .save o) :=
  ⟨fun k hk _ => (State.isRam_ne (h k hk)).1 _, fun k hk _ => (State.isRam_ne (h k hk)).2 _⟩

theorem witness_ArmEncodeDecode : (Instr.ldr .al false false false 1 15 (.imm 0xFFF)).isThumb = false ∧
    (Instr.ldr .al false false false 1 15 (.imm 0xFFF)).wellFormed = true := by decide

theorem witness_ThumbEncodeDecode : (Instr.tBcond .le 0xFF).isThumb = true ∧ (Instr.tBcond .le 0xFF).wellFormed = true := by decide

theorem witness_StepExecutesSlot : let s := State.reset.withFetchWord 32 0xE0910002
    s.sampleKeys.halted = false ∧ s.sampleKeys.irqTaken = false ∧ s.sampleKeys.pipeValid = true ∧
    decode s.sampleKeys.cpsr.t (if s.sampleKeys.cpsr.t then Encoded.thumb (s.sampleKeys.pipeE.setWidth 16)
      else Encoded.arm s.sampleKeys.pipeE).bytes = .ok (.add .al true 1 0 (.shiftImm 2 .lsl 0), []) := by
  refine ⟨by decide, by decide, by decide, rfl⟩

/-- The three words from the reset address. -/
theorem witness_RefillFetchesAtR15 : let s := State.reset
    s.isz = 4 ∧ (∀ k < 4, isMemory (alignTo s.r15 4 + BitVec.ofNat 32 k) = true) ∧
    (∀ k < 4, isMemory (alignTo (s.r15 + s.iszWord) 4 + BitVec.ofNat 32 k) = true) ∧
    (∀ k < 4, isMemory (alignTo (s.r15 + 2 * s.iszWord) 4 + BitVec.ofNat 32 k) = true) := by decide

theorem witness_FailedConditionAdvances :
    (Instr.b .eq 0).isThumb = false ∧ condPassed State.reset.cpsr (Instr.b .eq 0).cond = false := by decide

/-- The amounts where the clauses meet: 0, 1, 31, 32, 33. -/
theorem witness_BarrelShifter : shiftBy .ror 0x80000001 0 = (0x80000001, none) ∧ shiftBy .ror 0x80000001 1 = (0xC0000000, some true) ∧
    shiftBy .lsl 0x80000001 31 = (0x80000000, some false) ∧ shiftBy .lsl 0x80000001 32 = (0, some true) ∧
    shiftBy .lsl 0x80000001 33 = (0, some false) ∧ shiftBy .asr 0x80000001 31 = (0xFFFFFFFF, some false) ∧
    shiftBy .asr 0x80000001 32 = (0xFFFFFFFF, some true) ∧ shiftBy .asr 0x80000001 33 = (0xFFFFFFFF, some true) := by decide

/-- R171: 0xFF rotated right by 8 sets the carry; R172: the amount 0; R170: only the low byte of Rs counts. -/
theorem test_operand2 : let s := (withR1 0x80000001).writeReg 2 0x100
    s.operand2 (.imm 4 0xFF) = (0xFF000000, some true) ∧ s.operand2 (.imm 0 0xFF) = (0xFF, none) ∧
    s.operand2 (.shiftImm 1 .lsr 0) = (0, some true) ∧ s.operand2 (.shiftImm 1 .ror 0) = (0x40000000, some true) ∧
    s.operand2 (.shiftReg 1 .lsr 2) = (0x80000001, none) := by decide

theorem witness_ArmLogicalResults : condPassed State.reset.cpsr .al = true ∧ (14 : Reg) ≠ 15 := by decide
theorem witness_ArmArithmeticResults : condPassed State.reset.cpsr .ge = true ∧ (0 : Reg) ≠ 15 := by decide
theorem witness_ArmCompareFlags : condPassed State.reset.cpsr .ne = true := by decide

/-- With an SPSR and without one. -/
theorem witness_ArmResultToPc : condPassed (Psr.ofWord 0x92) .al = true ∧
    (State.reset.setCpsr (.ofWord 0x92)).spsrOf (State.reset.setCpsr (.ofWord 0x92)).bank = some (.ofWord 0) ∧
    condPassed State.reset.cpsr .al = true ∧ State.reset.spsrOf State.reset.bank = none := by decide

theorem witness_ArmMultiplies : condPassed State.reset.cpsr .al = true ∧ (14 : Reg) ≠ 15 ∧ (15 : Reg) = 15 := by decide
theorem witness_ArmLongMultiplies : condPassed State.reset.cpsr .al = true ∧ (14 : Reg) ≠ 15 ∧ (13 : Reg) ≠ 15 ∧ (13 : Reg) ≠ 14 := by
  decide
theorem witness_MrsReadsStatus : condPassed State.reset.cpsr .al = true ∧ (14 : Reg) ≠ 15 := by decide

/-- A write that keeps T and one that changes it. -/
theorem witness_MsrWritesCpsr : condPassed State.reset.cpsr .al = true ∧
    after (exec (.msr .al false 1 (.imm 0 0x1F)) State.reset) (fun t => t.cpsr.t == State.reset.cpsr.t) = true ∧
    after (exec (.msr .al false 1 (.imm 0 0x3F)) State.reset) (fun t => t.cpsr.t != State.reset.cpsr.t) = true := by decide

/-- The bank of the current mode and another one; a mode without an SPSR. -/
theorem witness_MsrWritesSpsr : condPassed (Psr.ofWord 0x92) .al = true ∧ (State.reset.setCpsr (.ofWord 0x92)).bank = .irq ∧
    Bank.svc ≠ .irq ∧ inUsr.bank = .usr := by decide

theorem witness_ArmBranches : condPassed State.reset.cpsr .al = true := by decide

/-- Pre-indexed without write-back, pre-indexed with it, post-indexed. -/
theorem witness_AddressingForms : (State.reset.sdtAddress true true false 1 (.imm 4)).wb = false ∧
    (State.reset.sdtAddress true false true 1 (.imm 4)).wb = true ∧ (State.reset.sdtAddress false false false 1 (.imm 4)).wb = true := by
  decide

/-- Post-indexed with Rn other than Rd; Rd = 15; Rn = 15 with write-back; no write-back. -/
theorem witness_ArmLoads : condPassed State.reset.cpsr .al = true ∧ (0 : Reg) ≠ 15 ∧
    (State.reset.sdtAddress false true false 1 (.imm 4)).wb = true ∧ (1 : Reg) ≠ 15 ∧ (1 : Reg) ≠ 0 ∧
    (State.reset.sdtAddress false true false 15 (.imm 4)).wb = true ∧ (State.reset.sdtAddress true true false 15 (.imm 4)).wb = false ∧
    ((withR1 3).hsdtAddress true true false 1 (.imm 0)).ea.getLsbD 0 = true ∧
    ((withR1 2).hsdtAddress true true false 1 (.imm 0)).ea.getLsbD 0 = false := by decide

/-- The last word of IWRAM's window; a store to an I/O register is the other case. -/
theorem witness_ArmStores : condPassed (withR1 0x03FFFFFC).cpsr .al = true ∧ Memory.wf (withR1 0x03FFFFFC).mem = true ∧
    (∀ k < 4, isRam (alignTo ((withR1 0x03FFFFFC).sdtAddress true true false 1 (.imm 0)).ea 4 + BitVec.ofNat 32 k) = true) ∧
    (∀ k < 4, ∀ o, region (alignTo ((withR1 0x03FFFFFC).sdtAddress true true false 1 (.imm 0)).ea 4 + BitVec.ofNat 32 k) ≠ .io o) ∧
    ((withR1 0x03FFFFFC).sdtAddress true true true 1 (.imm 0)).wb = true ∧ (1 : Reg) ≠ 15 ∧
    ((withR1 0x03FFFFFC).sdtAddress true true true 15 (.imm 0)).wb = true := by
  have h : ∀ k < 4, isRam (alignTo ((withR1 0x03FFFFFC).sdtAddress true true false 1 (.imm 0)).ea 4 + BitVec.ofNat 32 k) = true := by
    decide
  exact ⟨by decide, by decide, h, (ram_of_isRam h).1, by decide, by decide, by decide⟩

theorem witness_SwapsReadThenWrite : condPassed (withR1 0x02000000).cpsr .al = true ∧ (0 : Reg) ≠ 15 ∧
    Memory.wf (withR1 0x02000000).mem = true ∧ (∀ k < 4, isRam (alignTo ((withR1 0x02000000).readReg 1) 4 + BitVec.ofNat 32 k) = true) ∧
    (∀ k < 4, ∀ o, region (alignTo ((withR1 0x02000000).readReg 1) 4 + BitVec.ofNat 32 k) ≠ .io o) := by
  have h : ∀ k < 4, isRam (alignTo ((withR1 0x02000000).readReg 1) 4 + BitVec.ofNat 32 k) = true := by decide
  exact ⟨by decide, by decide, by decide, h, (ram_of_isRam h).1⟩

/-- A list with R15 and one without; the base in the list and not. -/
theorem witness_LdmLoadsList : condPassed State.reset.cpsr .al = true ∧ (0x8001 : BitVec 16) ≠ 0 ∧
    (15, 7) ∈ (regList 0x8001).zip [(5 : Word), 7] ∧ (0, 5) ∈ (regList 0x8001).zip [(5 : Word), 7] ∧
    (∀ r ∈ regList 0x8001, r ≠ 15 → physIndex .usr r ≠ physIndex .usr 1) ∧ (0x0001 : BitVec 16).getLsbD 15 = false ∧
    physIndex .irq 13 ≠ physIndex .usr 0 := by decide

/-- Two registers at the top of IWRAM's window, the base listed second. -/
theorem witness_StmStoresList : let s := withR1 0x03FFFFF8
    condPassed s.cpsr .al = true ∧ (0x0003 : BitVec 16) ≠ 0 ∧ Memory.wf s.mem = true ∧
    (∀ k < 4 * 2, isRam (alignTo (blockStart false true (s.readReg 1) 2) 4 + BitVec.ofNat 32 k) = true) ∧
    (∀ k < 4 * 2, ∀ o, region (alignTo (blockStart false true (s.readReg 1) 2) 4 + BitVec.ofNat 32 k) ≠ .io o) ∧
    (regList 0x0003).length = 2 ∧ (1 : Reg) ≠ 15 := by
  have h : ∀ k < 4 * 2, isRam (alignTo (blockStart false true ((withR1 0x03FFFFF8).readReg 1) 2) 4 + BitVec.ofNat 32 k) = true := by
    decide
  exact ⟨by decide, by decide, by decide, h, (ram_of_isRam h).1, by decide, by decide⟩

/-- R1, SP and R0 at RAM: the three bases. -/
theorem witness_EmptyListTransfersPc : let s := withR1 0x03000000
    condPassed s.cpsr .al = true ∧ Memory.wf s.mem = true ∧
    (∀ k < 4, isRam (alignTo (blockStart false true (s.readReg 1) 16) 4 + BitVec.ofNat 32 k) = true) ∧
    (∀ k < 4, ∀ o, region (alignTo (blockStart false true (s.readReg 1) 16) 4 + BitVec.ofNat 32 k) ≠ .io o) ∧
    (∀ k < 4, isRam (alignTo (s.readReg 13 - 0x40) 4 + BitVec.ofNat 32 k) = true) ∧ (1 : Reg) ≠ 15 := by
  have h : ∀ k < 4, isRam (alignTo (blockStart false true ((withR1 0x03000000).readReg 1) 16) 4 + BitVec.ofNat 32 k) = true := by
    decide
  exact ⟨by decide, by decide, h, (ram_of_isRam h).1, by decide, by decide⟩

theorem witness_SwiEntersSupervisor : condPassed State.reset.cpsr .al = true := by decide
theorem witness_UndefinedAndCoprocessorAdvance : condPassed State.reset.cpsr .al = true := by decide

/-- The destinations 14 and 15. -/
theorem witness_ThumbRegisterSums : (14 : Reg) ≠ 15 ∧ (15 : Reg) = 15 := by decide

theorem witness_ThumbStores : let s := withR1 0x02FFFFFC
    Memory.wf s.mem = true ∧ (∀ k < 4, isRam (alignTo (s.readReg (low 1) + s.readReg (low 0)) 4 + BitVec.ofNat 32 k) = true) ∧
    (∀ k < 4, ∀ o, region (alignTo (s.readReg (low 1) + s.readReg (low 0)) 4 + BitVec.ofNat 32 k) ≠ .io o) := by
  have h : ∀ k < 4, isRam (alignTo ((withR1 0x02FFFFFC).readReg (low 1) + (withR1 0x02FFFFFC).readReg (low 0)) 4 +
      BitVec.ofNat 32 k) = true := by decide
  exact ⟨by decide, h, (ram_of_isRam h).1⟩

/-- PUSH of LR alone below SP; STMIA R1!, of R0 and R1. -/
theorem witness_ThumbBlockStores : let s := withR1 0x03000000
    Memory.wf s.mem = true ∧ lowRegList 0 ++ [14] ≠ [] ∧ lowRegList 3 ≠ [] ∧
    (∀ k < 4 * 1, isRam (alignTo (s.readReg 13 - 4) 4 + BitVec.ofNat 32 k) = true) ∧
    (∀ k < 4 * 2, isRam (alignTo (s.readReg (low 1)) 4 + BitVec.ofNat 32 k) = true) ∧
    (∀ k < 4 * 2, ∀ o, region (alignTo (s.readReg (low 1)) 4 + BitVec.ofNat 32 k) ≠ .io o) := by
  have h : ∀ k < 4 * 2, isRam (alignTo ((withR1 0x03000000).readReg (low 1)) 4 + BitVec.ofNat 32 k) = true := by decide
  exact ⟨by decide, by decide, by decide, by decide, h, (ram_of_isRam h).1⟩

/-- POP of PC alone, LDMIA with the base in the list and not. -/
theorem witness_ThumbBlockLoads : lowRegList 0 ++ [15] ≠ [] ∧ (15, 7) ∈ (lowRegList 0 ++ [15]).zip [(7 : Word)] ∧
    (0x80 : BitVec 8) ≠ 0 ∧ low 0 ∉ lowRegList 0x80 ∧ (7, 9) ∈ (lowRegList 0x80).zip [(9 : Word)] := by decide

/-- An interrupted ARM state. -/
def interrupted : State := { State.reset with pipeValid := true, r15 := 0x08000108, ie := 1, iflag := 1, ime := true }

/-- A halted CPU whose timer 0, at its last count, requests its enabled interrupt. -/
def sleeping : State :=
  { State.reset with halted := true, ie := 0x0008, ime := true, pipeValid := true, r15 := 0x08000108
                     timers := State.reset.timers.set 0 ⟨0, 0xFFFF, 0x00C0, 0⟩ }

/-- A device phase that wakes the CPU with an IRQ to take, and with I = 1 without one. -/
theorem witness_HaltedCpuWaits : sleeping.halted = true ∧ sleeping.keyInput = [] ∧
    (sleeping.devices 1).halted = false ∧ (sleeping.devices 1).irqTaken = true ∧
    ({ sleeping with cpsr := .ofWord 0x9F }.devices 1).halted = false ∧
    ({ sleeping with cpsr := .ofWord 0x9F }.devices 1).irqTaken = false := by decide

theorem witness_IrqEntrySavesAndVectors : interrupted.halted = false ∧ interrupted.irqTaken = true := by decide

/-- The state an IRQ entry leaves meets the hypotheses about the handler. -/
theorem witness_IrqReturnResumes : let h := interrupted.irqEntry
    h.cpsr.mode = 0x12 ∧ h.spsrIrq = interrupted.cpsr ∧ h.readBank .irq 14 = interrupted.nextExecAddr + 4 := by decide

theorem witness_ResetState : Memory.wf [] = true ∧ Memory.wf [(0x00000000, 1), (0x08000000, 0xFF)] = true ∧ isRam 0x02000000 = true ∧
    isRam 0x070003FF = true ∧ Config.defaultParams.biosPresent = false ∧
    ({ Config.defaultParams with biosPresent := true } : Config.Params).biosPresent = true ∧ (13 : Reg) ≠ 15 ∧
    ((13 : Reg) = 13 → Bank.fiq = .fiq ∨ Bank.fiq = .abt ∨ Bank.fiq = .und) := by decide

/-- A write to a register in usr mode; R13_svc is no register of the usr bank. -/
theorem witness_UserModeStaysConfined : inUsr.cpsr.mode = 0x10 ∧ (∀ c n, Instr.tMovImm 0 5 ≠ .swi c n) ∧
    (∀ n, Instr.tMovImm 0 5 ≠ .tSwi n) ∧ (∃ t, exec (.tMovImm 0 5) inUsr = .next t) ∧ (13 : Reg) ≠ 15 ∧
    (∀ q : Reg, physIndex .svc 13 ≠ physIndex .usr q) := by
  refine ⟨by decide, by simp, by simp, ⟨_, rfl⟩, by decide, by decide⟩

/-- A step from reset, and from a state whose next instruction stores. -/
theorem witness_steps : after (step State.reset) (fun _ => true) = true ∧
    after (run (withR1 0x03000000) 32 0xE5810000) (fun _ => true) = true := by decide

theorem witness_StepKeepsMemoryCanonical : Memory.wf State.reset.mem = true ∧ after (step State.reset) (fun _ => true) = true := by
  decide
theorem witness_StepKeepsPcAligned : PcInv State.reset ∧ after (step State.reset) (fun _ => true) = true :=
  ⟨⟨by decide, by decide⟩, by decide⟩
theorem witness_StepKeepsHaltInvariant : IrqInv { State.reset with halted := true, ie := 1, iflag := 2 } ∧ IrqInv State.reset ∧
    after (step State.reset) (fun _ => true) = true := ⟨⟨by decide, by decide⟩, ⟨by decide, by decide⟩, by decide⟩

/-- The last cycle of a frame. -/
def lastCycle : State :=
  { State.reset with lcd := { Lcd.reset with scanline := 227, cycle := 1231, vblank := true, hblank := true } }

theorem lastCycle_inv : LcdInv lastCycle := ⟨by decide, by decide, by decide, by decide⟩

theorem witness_StepKeepsLcdRanges : LcdInv State.reset ∧ LcdInv lastCycle ∧ after (step lastCycle) (fun _ => true) = true :=
  ⟨⟨by decide, by decide, by decide, by decide⟩, lastCycle_inv, by decide⟩

/-- The first and last byte of the BIOS window, and of the ROM's. -/
theorem witness_StepKeepsImages : after (step State.reset) (fun _ => true) = true ∧ region 0 = .bios 0 ∧ region 0x3FFF = .bios 0x3FFF ∧
    region 0x08000000 = .rom 0 ∧ region 0x0DFFFFFF = .rom 0x1FFFFFF := by decide

/-- A step over an HBlank; a channel of each timing that is due: VBlank and HBlank with their pulse, immediate when its delay ends;
special timing is not. -/
theorem witness_DmaPhaseStartsDueChannels :
    after (step { State.reset with lcd := { Lcd.reset with cycle := 959 } }) (fun t => !t.hblankPulse) = true ∧
    (let ch := fun (h : Half) (d : Nat) => { DmaChannel.reset with cntH := h, delay := d }
     let s := { State.reset with dma := #v[ch 0x8000 2, ch 0x9000 0, ch 0xA000 0, ch 0xB000 0], vblankPulse := true, hblankPulse := true }
     (s.dmaSchedule 2).dma.toList.map (·.go) = [true, true, true, false] ∧
     (s.dmaSchedule 1).dma.toList.map (·.go) = [false, true, true, false]) := by decide

/-- The last byte of EWRAM's window; an aligned address. -/
theorem witness_RamReadsBack : Memory.wf State.reset.mem = true ∧ isRam (alignTo 0x02FFFFFF 4) = true ∧
    isRam (alignTo 0x07000000 4) = true ∧ (0x07000000 : Word) = alignTo 0x07000000 4 := by decide

/-- The first and last address of each clause. -/
theorem witness_AddressMapEdges : region (0x02000000 + 0x40000) = region 0x02000000 ∧ region (0x02FBFFFF + 0x40000) = region 0x02FBFFFF ∧
    region (0x03000000 + 0x8000) = region 0x03000000 ∧ region (0x03FF7FFF + 0x8000) = region 0x03FF7FFF ∧
    region (0x08000000 + 0x02000000) = region 0x08000000 ∧ region (0x0BFFFFFF + 0x02000000) = region 0x0BFFFFFF ∧
    [0x10000000, 0xFFFFFFFF, 0x00004000, 0x01FFFFFF, 0x04000400, 0x04FFFFFF, 0x05000400, 0x05FFFFFF, 0x06018000, 0x06FFFFFF,
     0x07000400, 0x07FFFFFF, 0x0E010000, 0x0FFFFFFF].all (fun a => region a == .unmapped) = true ∧
    (0x3FFF : Word).toNat < 0x4000 ∧ 0x0E000000 ≤ (0x0E00FFFF : Word).toNat ∧ (0x0E00FFFF : Word).toNat < 0x0E010000 ∧
    ({ State.reset with save := some [] } : State).save = some [] ∧ State.reset.save = none ∧
    State.reset.params.biosPresent = false ∧ ({ Config.defaultParams with biosPresent := true } : Config.Params).biosPresent = true ∧
    0x08000000 ≤ (0x0DFFFFFF : Word).toNat ∧ (0x0DFFFFFF : Word).toNat < 0x0E000000 := by decide

/-- R67: a word read over the end of a ROM of five bytes takes the one that is there, with one diagnostic. -/
theorem test_rom_end :
    let s := { State.reset with params := { Config.defaultParams with romLen := 5, unusedValue := 0x5A }, mem := [(0x08000004, 0x11)] }
    s.memRead 0x0A000006 4 = (0x5A5A5A11, s.emit .unmappedRead 0x0A000004) := by decide

/-- R68: a halfword store and a word read reach the save device byte by byte, ascending. -/
theorem test_save_history : let s := ({ State.reset with save := some [] }.memWrite 0x0E000010 2 0xBEEF)
    (s.memRead 0x0E00FFFC 4).2.save =
      some [.read 0xFFFF, .read 0xFFFE, .read 0xFFFD, .read 0xFFFC, .write 0x11 0xBE, .write 0x10 0xEF] := by decide

/-- The first and the last line; an enabling write to a timer and another. -/
theorem witness_InterruptRequestsAndIoWrites : 0 < 14 ∧ 13 < 14 ∧
    (State.reset.timers[(0 : Fin 4)].control.getLsbD 7 = false ∧ (0x80 : Byte).getLsbD 7 = true) ∧
    ¬ ((0x00 : Byte).getLsbD 7 = true) := by decide

/-- The first and last timer, channel and background; the last byte of the I/O window. -/
theorem witness_IoRegisterReads : region 0x04000000 = .io 0 ∧ region 0x040003FF = .io 0x3FF ∧ ioOwner 0x0DF = some (.dmaCntH 3, 1) ∧
    ioOwner 0x10F = some (.tmCntH 3, 1) ∧ ioOwner 0x00F = some (.bgcnt 3, 1) ∧ ioOwner 0x01F = some (.bgYofs 3, 1) := by decide

/-- An enabling write, a write that leaves the bit at 1, one that clears it; a count of 0. -/
theorem witness_DmaEnableEdge : State.reset.dma[(0 : Fin 4)].cntH.getLsbD 15 = false ∧ (0x80 : Byte).getLsbD 7 = true ∧
    (0x00 : Byte).getLsbD 7 = false ∧ ({ DmaChannel.reset with cntH := 0x8000 } : DmaChannel).cntH.getLsbD 15 = true ∧
    State.reset.dma[(3 : Fin 4)].cntL.toNat = 0 := by decide

/-- The longest transfer, to one fixed word of IWRAM; the empty one needs no destination. -/
theorem witness_DmaTransferCompletes :
    let ch : DmaChannel := { DmaChannel.reset with cntH := 0x8440, curDst := 0x03000000, remaining := 0x10000 }
    ch.cntH.getLsbD 15 = true ∧ ch.cntH.extractLsb' 5 2 = 2 ∧
    (∀ k < ch.remaining, ∀ j < 4, ∀ o, region (alignTo (ch.curDst + BitVec.ofNat 32 k * 0) 4 + BitVec.ofNat 32 j) ≠ .io o) ∧
    State.reset.dma[(0 : Fin 4)].remaining = 0 := by
  refine ⟨by decide, by decide, fun k _ j hj o => ?_, by decide⟩
  have h : ∀ j < 4, isRam (alignTo 0x03000000 4 + BitVec.ofNat 32 j) = true := by decide
  show region (alignTo (0x03000000 + BitVec.ofNat 32 k * 0#32) 4 + BitVec.ofNat 32 j) ≠ .io o
  rw [BitVec.mul_zero, BitVec.add_zero]
  exact (State.isRam_ne (h j hj)).1 o

theorem witness_DmaUnitCopies : Memory.wf State.reset.mem = true ∧ (4 = 2 ∨ 4 = 4) ∧
    (∀ k < 4, isRam (alignTo 0x03FFFFFC 4 + BitVec.ofNat 32 k) = true) ∧ (∀ k < 2, isRam (alignTo 0x03FFFFFE 2 + BitVec.ofNat 32 k) = true) := by
  decide

/-- A counter at 0xFFFE and at 0xFFFF; timers 2 and 3; the last tick before a wrap; the last prescaler value. -/
theorem witness_TickAndCascade : (⟨0, 0xFFFE, 0, 0⟩ : Timer).counter ≠ 0xFFFF ∧ (⟨0, 0xFFFF, 0, 0⟩ : Timer).counter = 0xFFFF ∧
    (2 : Fin 4).val < 3 ∧ ¬ (3 : Fin 4).val < 3 ∧ (0x84 : Half).getLsbD 7 = true ∧ (0x84 : Half).getLsbD 2 = true ∧
    (0xFFFE : Half).toNat + 1 < 0x10000 ∧ (0x83 : Half).getLsbD 7 = true ∧ (0x83 : Half).getLsbD 2 = false ∧
    (0x83 : Half).extractLsb' 0 2 = 3 := by decide

theorem witness_LcdFramePosition : LcdInv State.reset ∧ LcdInv lastCycle :=
  ⟨⟨by decide, by decide, by decide, by decide⟩, lastCycle_inv⟩

/-- The last cycle of a line and another. -/
theorem witness_LcdRequests : LcdInv lastCycle ∧ lastCycle.lcd.cycle = 1231 ∧ LcdInv State.reset ∧ ¬ State.reset.lcd.cycle = 1231 :=
  ⟨lastCycle_inv, by decide, ⟨by decide, by decide, by decide, by decide⟩, by decide⟩

/-- The stored state again; a change that meets the condition; one that does not. -/
theorem witness_KeyInterruptCondition : let s := { State.reset with keycnt := 0xC003, keyInput := [3] }
    s.keyInput = 3 :: [] ∧ (3 : BitVec 10) ≠ s.keyState ∧ s.keycnt.getLsbD 14 = true ∧ s.keycnt.getLsbD 15 = true ∧
    (∀ b < 10, s.keycnt.getLsbD b = true → (3 : BitVec 10).getLsbD b = true) ∧
    ¬ (∀ b < 10, s.keycnt.getLsbD b = true → (1 : BitVec 10).getLsbD b = true) ∧ (0 : BitVec 10) = s.keyState := by decide

end Sys2Proof.Tests
end

/-! What a step can do to storage: it changes the memory list by bus writes only, and no parameter. An invariant that a bus write
keeps is thereby kept by a whole step; the images (R6, R64, R65, R67) are such an invariant. -/

namespace Sys2Proof.Machine

/-- From `s` to `t` the memory list changes by bus writes only, and the parameters stay. -/
inductive StoresOnly : State → State → Prop
  | keep {s t : State} (mem : t.mem = s.mem := by simp) (params : t.params = s.params := by simp) : StoresOnly s t
  | memWrite (s : State) (a : Word) (n : Nat) (v : Word) : StoresOnly s (s.memWrite a n v)
  | trans {s t u : State} (h : StoresOnly s t) (g : StoresOnly t u) : StoresOnly s u

namespace StoresOnly

theorem params {s t : State} (h : StoresOnly s t) : t.params = s.params := by
  induction h with
  | keep _ hp => exact hp
  | memWrite s a n v => exact State.memWrite_params s a n v
  | trans _ _ ih ih' => exact ih'.trans ih

theorem refl (s : State) : StoresOnly s s := .keep

/-- Either of two operations. -/
theorem either {c : Prop} [Decidable c] {s t u : State} (h : StoresOnly s t) (g : StoresOnly s u) :
    StoresOnly s (if c then t else u) := by
  split
  · exact h
  · exact g

/-! ## Operations of the ARM instructions -/

theorem restoreFromSpsr (s : State) : StoresOnly s s.restoreFromSpsr := by
  unfold State.restoreFromSpsr
  split <;> exact .keep

theorem aluWrite (s : State) (sf : Bool) (rd : Reg) (v : Word) (g : Psr → Psr) : StoresOnly s (s.aluWrite sf rd v g) := by
  unfold State.aluWrite
  split
  · cases sf
    · exact .keep
    · exact (restoreFromSpsr s).trans .keep
  · cases sf <;> exact .keep

theorem aluLogical (s : State) (f : Word → Word → Word) (sf : Bool) (rn rd : Reg) (o : Operand2) :
    StoresOnly s (s.aluLogical f sf rn rd o) := aluWrite s _ _ _ _

theorem aluMove (s : State) (f : Word → Word) (sf : Bool) (rd : Reg) (o : Operand2) : StoresOnly s (s.aluMove f sf rd o) :=
  aluWrite s _ _ _ _

theorem aluArith (s : State) (f : Word → Word → Bool → Sum) (sf : Bool) (rn rd : Reg) (o : Operand2) :
    StoresOnly s (s.aluArith f sf rn rd o) := aluWrite s _ _ _ _

theorem updateFlags (s : State) (g : Psr → Psr) : StoresOnly s (s.updateFlags g) := .keep

theorem mulWrite (s : State) (sf : Bool) (rd : Reg) (v : Word) : StoresOnly s (s.mulWrite sf rd v) := by
  unfold State.mulWrite
  cases sf <;> exact .keep

theorem mullWrite (s : State) (sf : Bool) (rdHi rdLo : Reg) (v : BitVec 64) : StoresOnly s (s.mullWrite sf rdHi rdLo v) := by
  unfold State.mullWrite
  cases sf <;> exact .keep

theorem mrsSpsr (s : State) (rd : Reg) : StoresOnly s (s.mrsSpsr rd) := by
  unfold State.mrsSpsr
  split <;> exact .keep

theorem msrSpsr (s : State) (mask : BitVec 4) (v : Word) : StoresOnly s (s.msrSpsr mask v) := by
  unfold State.msrSpsr
  split <;> exact .keep

theorem noteIllegalMode (s : State) : StoresOnly s s.noteIllegalMode := .keep

theorem msrCpsr (s : State) (mask : BitVec 4) (v : Word) : StoresOnly s (s.msrCpsr mask v) := by
  have noted : ∀ t, StoresOnly s t → StoresOnly s (if mask.getLsbD 0 && privileged s.cpsr.mode then t.noteIllegalMode else t) :=
    fun t h => either (h.trans (noteIllegalMode t)) h
  apply noted
  split <;> exact .keep

theorem branchExchange (s : State) (v : Word) : StoresOnly s (s.branchExchange v) := .keep rfl rfl

theorem takeException (s : State) (e : Exc) (ret : Word) : StoresOnly s (s.takeException e ret) :=
  .keep (by simp [State.takeException]) (by simp [State.takeException])

/-! ## Loads and stores -/

/-- A load primitive: it changes no storage. -/
def IsLoad (load : State → Word → Word × State) : Prop := ∀ s ea, StoresOnly s (load s ea).2

/-- A store primitive: it changes storage by bus writes. -/
def IsStore (store : State → Word → Word → State) : Prop := ∀ s ea v, StoresOnly s (store s ea v)

theorem loadWord : IsLoad State.loadWord := fun s ea => .keep (State.memRead_mem s ea 4) (State.memRead_params s ea 4)
theorem loadHalf : IsLoad State.loadHalf := fun s ea => .keep (State.memRead_mem s ea 2) (State.memRead_params s ea 2)
theorem loadByte : IsLoad State.loadByte := fun s ea => .keep (State.memRead_mem s ea 1) (State.memRead_params s ea 1)
theorem loadByteSigned : IsLoad State.loadByteSigned := loadByte

theorem loadHalfSigned : IsLoad State.loadHalfSigned := by
  intro s ea
  unfold State.loadHalfSigned
  split
  · exact loadByteSigned s ea
  · exact loadHalf s ea

theorem storeWord : IsStore State.storeWord := fun s ea v => memWrite s ea 4 v
theorem storeHalf : IsStore State.storeHalf := fun s ea v => memWrite s ea 2 v
theorem storeByte : IsStore State.storeByte := fun s ea v => memWrite s ea 1 v

theorem writeReg (s : State) (r : Reg) (v : Word) : StoresOnly s (s.writeReg r v) := .keep

/-- An optional write-back. -/
theorem writeBack (s : State) (b : Bool) (r : Reg) (v : Word) : StoresOnly s (if b then s.writeReg r v else s) :=
  either (writeReg s r v) (refl s)

theorem loadTransfer {load : State → Word → Word × State} (h : IsLoad load) (s : State) (ad : Address) (rn rd : Reg) :
    StoresOnly s (s.loadTransfer load ad rn rd) := ((h s _).trans (writeBack _ _ _ _)).trans (writeReg _ _ _)

theorem storeTransfer {store : State → Word → Word → State} (h : IsStore store) (s : State) (ad : Address) (rn rd : Reg) :
    StoresOnly s (s.storeTransfer store ad rn rd) := (h s _ _).trans (writeBack _ _ _ _)

theorem swap {load : State → Word → Word × State} {store : State → Word → Word → State} (hl : IsLoad load) (hs : IsStore store)
    (s : State) (rn rd rm : Reg) : StoresOnly s (s.swap load store rn rd rm) :=
  ((hl s _).trans (hs _ _ _)).trans (writeReg _ _ _)

/-! ## Block transfers -/

theorem readWords (s : State) (a : Word) (n : Nat) : StoresOnly s (s.readWords a n).2 := .keep

theorem writeWords (vs : List Word) : ∀ (s : State) (a : Word), StoresOnly s (s.writeWords a vs) := by
  induction vs with
  | nil => exact fun s _ => refl s
  | cons v vs ih => exact fun s a => (memWrite s a 4 v).trans (ih _ _)

theorem writeRegs (s : State) (b : Bank) (rs : List Reg) (vs : List Word) : StoresOnly s (s.writeRegs b rs vs) := .keep

theorem noteEmptyList (s : State) : StoresOnly s s.noteEmptyList := .keep rfl rfl

theorem branchTo (s : State) (v : Word) : StoresOnly s (s.branchTo v) := .keep

theorem memRead (s : State) (a : Word) (n : Nat) : StoresOnly s (s.memRead a n).2 := .keep

theorem ldmList (s : State) (p u sb w : Bool) (rn : Reg) (list : BitVec 16) : StoresOnly s (s.ldmList p u sb w rn list) := by
  have base := (readWords s (blockStart p u (s.readReg rn) (regList list).length) (regList list).length).trans
    (writeBack _ w rn (blockFinal u (s.readReg rn) (regList list).length))
  unfold State.ldmList
  cases sb
  · exact base.trans (writeRegs _ _ _ _)
  · cases list.getLsbD 15
    · exact base.trans (writeRegs _ _ _ _)
    · exact (base.trans (writeRegs _ _ _ _)).trans (restoreFromSpsr _)

theorem ldmEmpty (s : State) (p u sb w : Bool) (rn : Reg) : StoresOnly s (s.ldmEmpty p u sb w rn) := by
  have base := ((noteEmptyList s).trans (memRead _ (blockStart p u (s.readReg rn) 16) 4)).trans
    (writeBack _ w rn (blockFinal u (s.readReg rn) 16))
  unfold State.ldmEmpty
  cases sb
  · exact base.trans (branchTo _ _)
  · exact (base.trans (restoreFromSpsr _)).trans (branchTo _ _)

theorem stmList (s : State) (p u sb w : Bool) (rn : Reg) (list : BitVec 16) : StoresOnly s (s.stmList p u sb w rn list) :=
  (writeWords _ s _).trans (writeBack _ _ _ _)

theorem stmEmpty (s : State) (p u w : Bool) (rn : Reg) : StoresOnly s (s.stmEmpty p u w rn) :=
  ((noteEmptyList s).trans (memWrite _ _ 4 _)).trans (writeBack _ _ _ _)

/-! ## Operations of the THUMB instructions -/

theorem tLogical (s : State) (rd : LowReg) (r : Word × Option Bool) : StoresOnly s (s.tLogical rd r) :=
  (writeReg s _ _).trans (updateFlags _ _)

theorem tArith (s : State) (rd : LowReg) (r : Sum) : StoresOnly s (s.tArith rd r) := (writeReg s _ _).trans (updateFlags _ _)

theorem tLoad {load : State → Word → Word × State} (h : IsLoad load) (s : State) (ea : Word) (rd : LowReg) :
    StoresOnly s (s.tLoad load ea rd) := (h s ea).trans (writeReg _ _ _)

theorem tStore {store : State → Word → Word → State} (h : IsStore store) (s : State) (ea : Word) (rd : LowReg) :
    StoresOnly s (s.tStore store ea rd) := h s ea _

theorem pushRegs (s : State) (rs : List Reg) : StoresOnly s (s.pushRegs rs) := (writeWords _ s _).trans (writeReg _ _ _)

theorem pushEmpty (s : State) : StoresOnly s s.pushEmpty := ((noteEmptyList s).trans (memWrite _ _ 4 _)).trans (writeReg _ _ _)

theorem popRegs (s : State) (rs : List Reg) : StoresOnly s (s.popRegs rs) :=
  ((readWords s _ _).trans (writeRegs _ _ _ _)).trans (writeReg _ _ _)

theorem loadPcAlone (s : State) (rb : Reg) : StoresOnly s (s.loadPcAlone rb) :=
  (((noteEmptyList s).trans (memRead _ _ 4)).trans (writeReg _ _ _)).trans (branchTo _ _)

theorem stmiaList (s : State) (rb : Reg) (rs : List Reg) : StoresOnly s (s.stmiaList rb rs) :=
  (writeWords _ s _).trans (writeReg _ _ _)

theorem stmiaEmpty (s : State) (rb : Reg) : StoresOnly s (s.stmiaEmpty rb) :=
  ((noteEmptyList s).trans (memWrite _ _ 4 _)).trans (writeReg _ _ _)

theorem ldmiaList (s : State) (rb : Reg) (rs : List Reg) : StoresOnly s (s.ldmiaList rb rs) :=
  ((readWords s _ _).trans (writeReg _ _ _)).trans (writeRegs _ _ _ _)

/-! ## One instruction -/

theorem finish (s : State) (oldT : Bool) : StoresOnly s (s.finish oldT) := by
  unfold State.finish
  split
  · exact .keep
  · split
    · exact .keep
    · exact .keep rfl rfl

theorem execArm {c : Cond} {op : State → State} {s t : State} (h : execArm c op s = .next t) (hop : ∀ u, StoresOnly u (op u)) :
    StoresOnly s t := by
  unfold Machine.execArm at h
  split at h <;> obtain rfl := Host.Outcome.next.inj h
  · exact (StoresOnly.trans .keep (hop _)).trans (finish _ _)
  · exact .keep

theorem execThumb {op : State → State} {s t : State} (h : execThumb op s = .next t) (hop : ∀ u, StoresOnly u (op u)) :
    StoresOnly s t := by
  obtain rfl := Host.Outcome.next.inj h
  exact (StoresOnly.trans .keep (hop _)).trans (finish _ _)

/-- Every instruction reaches storage through the bus only. -/
theorem exec {i : Instr} {s t : State} (h : exec i s = .next t) : StoresOnly s t := by
  unfold Machine.exec at h
  cases i with
  | and | eor | orr | bic => exact execArm h fun u => aluLogical u _ _ _ _ _
  | mov | mvn => exact execArm h fun u => aluMove u _ _ _ _
  | sub | rsb | add | adc | sbc | rsc => exact execArm h fun u => aluArith u _ _ _ _ _
  | tst | teq | cmp | cmn => exact execArm h fun u => updateFlags u _
  | mul | mla => exact execArm h fun u => mulWrite u _ _ _
  | umull | umlal | smull | smlal => exact execArm h fun u => mullWrite u _ _ _ _
  | mrs => exact execArm h fun u => either (mrsSpsr u _) (writeReg u _ _)
  | msr => exact execArm h fun u => either (msrSpsr u _ _) (msrCpsr u _ _)
  | b => exact execArm h fun u => branchTo u _
  | bl => exact execArm h fun u => (writeReg u _ _).trans (branchTo _ _)
  | bx => exact execArm h fun u => branchExchange u _
  | swi => exact execArm h fun u => takeException u _ _
  | undefHalf | undefMul | undefMedia | cdp | ldc | stc | mrc | mcr => exact execArm h fun _ => .keep
  | ldr | ldrt => exact execArm h fun u => loadTransfer loadWord u _ _ _
  | ldrb | ldrbt => exact execArm h fun u => loadTransfer loadByte u _ _ _
  | ldrh => exact execArm h fun u => loadTransfer loadHalf u _ _ _
  | ldrsb => exact execArm h fun u => loadTransfer loadByteSigned u _ _ _
  | ldrsh => exact execArm h fun u => loadTransfer loadHalfSigned u _ _ _
  | str | strt => exact execArm h fun u => storeTransfer storeWord u _ _ _
  | strb | strbt => exact execArm h fun u => storeTransfer storeByte u _ _ _
  | strh => exact execArm h fun u => storeTransfer storeHalf u _ _ _
  | swp => exact execArm h fun u => swap loadWord storeWord u _ _ _
  | swpb => exact execArm h fun u => swap loadByte storeByte u _ _ _
  | ldm => exact execArm h fun u => either (ldmEmpty u _ _ _ _ _) (ldmList u _ _ _ _ _ _)
  | stm => exact execArm h fun u => either (stmEmpty u _ _ _ _) (stmList u _ _ _ _ _ _)
  | tLslImm | tLsrImm | tAsrImm | tMovImm | tAnd | tEor | tLsl | tLsr | tAsr | tRor | tOrr | tBic | tMvn =>
    exact execThumb h fun u => tLogical u _ _
  | tAddReg | tSubReg | tAddImm3 | tSubImm3 | tAddImm8 | tSubImm8 | tAdc | tSbc | tNeg => exact execThumb h fun u => tArith u _ _
  | tCmpImm | tTst | tCmp | tCmn | tCmpHi => exact execThumb h fun u => updateFlags u _
  | tMul => exact execThumb h fun u => mulWrite u _ _ _
  | tAddHi | tMovHi | tAddPc | tAddSp | tAddSpImm | tSubSpImm | tBlPrefix => exact execThumb h fun u => writeReg u _ _
  | tBx => exact execThumb h fun u => branchExchange u _
  | tLdrPc | tLdrReg | tLdrImm | tLdrSp => exact execThumb h fun u => tLoad loadWord u _ _
  | tLdrbReg | tLdrbImm => exact execThumb h fun u => tLoad loadByte u _ _
  | tLdrhReg | tLdrhImm => exact execThumb h fun u => tLoad loadHalf u _ _
  | tLdsbReg => exact execThumb h fun u => tLoad loadByteSigned u _ _
  | tLdshReg => exact execThumb h fun u => tLoad loadHalfSigned u _ _
  | tStrReg | tStrImm | tStrSp => exact execThumb h fun u => tStore storeWord u _ _
  | tStrbReg | tStrbImm => exact execThumb h fun u => tStore storeByte u _ _
  | tStrhReg | tStrhImm => exact execThumb h fun u => tStore storeHalf u _ _
  | tPush => exact execThumb h fun u => either (pushEmpty u) (pushRegs u _)
  | tPop => exact execThumb h fun u => either (loadPcAlone u _) (popRegs u _)
  | tStmia => exact execThumb h fun u => either (stmiaEmpty u _) (stmiaList u _ _)
  | tLdmia => exact execThumb h fun u => either (loadPcAlone u _) (ldmiaList u _ _)
  | tSwi => exact execThumb h fun u => takeException u _ _
  | tBcond => exact execThumb h fun u => either (branchTo u _) (refl u)
  | tB => exact execThumb h fun u => branchTo u _
  | tBlSuffix => exact execThumb h fun u => (branchTo u _).trans (writeReg _ _ _)
  | tUndefB | tUndefDE | tUndefE8 => exact execThumb h fun _ => .keep

/-! ## One CPU step -/

theorem applyPc (s : State) (v : Word) : StoresOnly s (s.applyPc v) := .keep

theorem irqEntry (s : State) : StoresOnly s s.irqEntry := (takeException s _ _).trans (applyPc _ _)

theorem cpuStep {s t : State} {k : Config.StepKind} (h : s.cpuStep = .next (t, k)) : StoresOnly s t := by
  unfold State.cpuStep at h
  split at h
  · obtain ⟨rfl, -⟩ := Prod.mk.inj (Host.Outcome.next.inj h); exact refl _
  split at h
  · obtain ⟨rfl, -⟩ := Prod.mk.inj (Host.Outcome.next.inj h); exact irqEntry s
  split at h
  · obtain ⟨rfl, -⟩ := Prod.mk.inj (Host.Outcome.next.inj h); exact .keep
  unfold State.execute at h
  split at h
  · next hx => obtain ⟨rfl, -⟩ := Prod.mk.inj (Host.Outcome.next.inj h); exact exec hx
  all_goals cases h

end StoresOnly

/-! ## The device phases: the LCD, the timers and the keys touch no storage -/

namespace State

@[simp] theorem requestIf_mem (s : State) (b : Bool) (line : Nat) : (s.requestIf b line).mem = s.mem := by
  unfold requestIf; split <;> simp

@[simp] theorem mapLcd_mem (s : State) (f : Lcd → Lcd) : (s.mapLcd f).mem = s.mem := rfl

@[simp] theorem hblankStart_mem (s : State) : s.hblankStart.mem = s.mem := by simp [hblankStart]

@[simp] theorem vblankStart_mem (s : State) : s.vblankStart.mem = s.mem := by simp [vblankStart]

@[simp] theorem vcountCheck_mem (s : State) : s.vcountCheck.mem = s.mem := by simp [vcountCheck]

@[simp] theorem drawLine_mem (s : State) : s.drawLine.mem = s.mem := by unfold drawLine; split <;> rfl

@[simp] theorem reachLine_mem (s : State) : s.reachLine.mem = s.mem := by
  unfold reachLine
  split
  · simp
  · split <;> simp

@[simp] theorem lineWrap_mem (s : State) : s.lineWrap.mem = s.mem := by simp [lineWrap]

@[simp] theorem lcdCycle_mem (s : State) : s.lcdCycle.mem = s.mem := by
  have point : ∀ u : State, u.hblankPoint.mem = u.mem := fun u => by unfold hblankPoint; split <;> simp
  have line : ∀ u : State, u.endOfLine.mem = u.mem := fun u => by unfold endOfLine; split <;> simp
  simp [lcdCycle, point, line]

@[simp] theorem lcdAdvance_mem (c : Nat) : ∀ s : State, (s.lcdAdvance c).mem = s.mem := by
  induction c with
  | zero => exact fun _ => rfl
  | succ c ih => exact fun s => (ih _).trans (lcdCycle_mem s)

@[simp] theorem setTimer_mem (s : State) (n : Fin 4) (t : Timer) : (s.setTimer n t).mem = s.mem := rfl

@[simp] theorem tick_mem (l : List (Fin 4)) : ∀ s : State, (s.tick l).mem = s.mem := by
  induction l with
  | nil => exact fun _ => rfl
  | cons n rest ih =>
    intro s
    unfold tick
    simp only
    split
    · split
      · simp
      · split <;> simp [ih]
    · simp

@[simp] theorem tickTimes_mem (n : Fin 4) (k : Nat) : ∀ s : State, (s.tickTimes n k).mem = s.mem := by
  induction k with
  | zero => exact fun _ => rfl
  | succ k ih => exact fun s => (ih _).trans (tick_mem _ s)

@[simp] theorem timersRun_mem (c : Nat) (l : List (Fin 4)) : ∀ s : State, (s.timersRun c l).mem = s.mem := by
  induction l with
  | nil => exact fun _ => rfl
  | cons n rest ih =>
    intro s
    unfold timersRun
    simp only
    split <;> simp [ih]

@[simp] theorem sampleKeys_mem (s : State) : s.sampleKeys.mem = s.mem := by
  unfold sampleKeys
  split
  · rfl
  · simp only
    split
    · rfl
    · exact requestIf_mem _ _ _

end State

namespace StoresOnly

/-! ## The DMA engine writes through the bus (R467) -/

theorem setDma (s : State) (n : Fin 4) (ch : DmaChannel) : StoresOnly s (s.setDma n ch) := .keep rfl rfl

theorem dmaUnit (s : State) (n : Fin 4) (unit : Nat) : StoresOnly s (s.dmaUnit n unit) :=
  ((memRead s _ unit).trans (memWrite _ _ unit _)).trans (setDma _ n _)

theorem dmaLoop (n : Fin 4) (unit k : Nat) (s : State) : StoresOnly s (State.dmaLoop n unit k s) :=
  State.dmaLoop_preserves (fun u h => h.trans (dmaUnit u n unit)) k s (refl s)

theorem dmaComplete (s : State) (n : Fin 4) : StoresOnly s (s.dmaComplete n) := by
  have request : StoresOnly s (s.requestIf s.dma[n].irq (8 + n)) := .keep (by simp) (SameCpu.requestIf s _ _).params
  unfold State.dmaComplete
  exact either (request.trans (setDma _ _ _)) (request.trans (setDma _ _ _))

theorem dmaRun (s : State) (n : Fin 4) : StoresOnly s (s.dmaRun n) := by
  have loop := (either (c := s.dma[n].srcCtl = 3)
    (.keep : StoresOnly s (s.emit (.unpredictable .dmaSourceControl) (BitVec.ofNat 32 n))) (refl s)).trans
    (dmaLoop n s.dma[n].unit s.dma[n].remaining _)
  exact either (loop.trans (dmaComplete _ n)) loop

theorem dmaRunAll (l : List (Fin 4)) : ∀ s : State, StoresOnly s (s.dmaRunAll l) := by
  induction l with
  | nil => exact refl
  | cons n rest ih =>
    intro s
    have turn : StoresOnly s ((if s.dma[n].enable then s.dmaRun n else s).dmaDone n) :=
      (either (dmaRun s n) (refl s)).trans (setDma _ _ _)
    exact either (turn.trans (ih _)) (ih s)

theorem dmaSchedule (s : State) (c : Nat) : StoresOnly s (s.dmaSchedule c) := .keep rfl rfl

theorem dmaAdvance (s : State) (c : Nat) : StoresOnly s (s.dmaAdvance c) := (dmaSchedule s c).trans (dmaRunAll _ _)

/-! ## One system step (R500) -/

theorem devices (s : State) (c : Nat) : StoresOnly s (s.devices c) := by
  have lcd : StoresOnly s (s.lcdAdvance c) := .keep (by simp) (SameCpu.lcdAdvance c s).params
  have timers : ∀ u : State, StoresOnly u (u.timersAdvance c) := fun u =>
    .keep (State.timersRun_mem c _ u) (SameCpu.timersAdvance u c).params
  exact (lcd.trans (dmaAdvance _ c)).trans (timers _)

/-- Whatever the CPU and the devices do in a step, storage changes by bus writes only. -/
theorem step {s t : State} (h : step s = .next t) : StoresOnly s t := by
  have keys : StoresOnly s s.sampleKeys := .keep (by simp) (SameCpu.sampleKeys s).params
  unfold Machine.step State.systemStep at h
  simp only at h
  split at h
  · next hc =>
    obtain rfl := Host.Outcome.next.inj h
    exact (keys.trans (cpuStep hc)).trans (devices _ _)
  all_goals cases h

end StoresOnly

/-! ## The images

The BIOS and ROM images are read-only: a bus write to an image does nothing, and one elsewhere is at another place (R64, R65, R67,
R69). With `StoresOnly` that carries over to a whole step. -/

/-- A byte of the BIOS or the ROM window, mirrors included (R62). -/
def InImage (a : Word) : Prop := ∃ o, region a = .bios o ∨ region a = .rom o

theorem InImage.isMemory {a : Word} (h : InImage a) : isMemory a = true := by
  obtain ⟨o, e | e⟩ := h <;> simp [Machine.isMemory, e]

namespace State

/-- A byte write to an image is dropped (R64, R65). -/
theorem busWriteByte_inImage (s : State) {a : Word} (h : InImage a) (v : Byte) : s.busWriteByte a v = s := by
  obtain ⟨o, e | e⟩ := h <;> simp only [busWriteByte, e]

theorem busWriteByte_keeps_image (s : State) {a : Word} (h : InImage a) (b : Word) (v : Byte) :
    ((s.busWriteByte b v).busReadByte a).1 = (s.busReadByte a).1 := by
  by_cases e : region a = region b
  · have hb : InImage b := by unfold InImage at h ⊢; rwa [← e]
    rw [busWriteByte_inImage s hb]
  · exact busWriteByte_other h.isMemory e

theorem writeBytes_keeps_image {a : Word} (h : InImage a) (k : Nat) : ∀ (s : State) (b v : Word),
    ((s.writeBytes b v k).busReadByte a).1 = (s.busReadByte a).1 := by
  induction k with
  | zero => exact fun _ _ _ => rfl
  | succ k ih => exact fun s b v => (ih _ _ _).trans (busWriteByte_keeps_image s h b _)

theorem memWrite_keeps_image (s : State) {a : Word} (h : InImage a) (b : Word) (n : Nat) (v : Word) :
    ((s.memWrite b n v).busReadByte a).1 = (s.busReadByte a).1 := by
  unfold memWrite busWrite
  refine (writeBytes_keeps_image h n _ _ _).trans (busReadByte_congr ?_ ?_ h.isMemory) <;> (repeat' split) <;> rfl

end State

theorem StoresOnly.keeps_image {s t : State} (h : StoresOnly s t) {a : Word} (ha : InImage a) :
    (t.busReadByte a).1 = (s.busReadByte a).1 := by
  induction h with
  | keep hm hp => exact State.busReadByte_congr hm hp ha.isMemory
  | memWrite s b n v => exact State.memWrite_keeps_image s ha b n v
  | trans _ _ ih ih' => exact ih'.trans ih

/-- Settles O48: a step changes storage by bus writes only, and a bus write changes no image byte. -/
theorem stepKeepsImages : Obligations.StepKeepsImages := by
  intro s t h
  have stores := StoresOnly.step h
  exact ⟨stores.params, fun _ ha => stores.keeps_image ha⟩

end Sys2Proof.Machine

/-! ## The bytes of a bus read (R70, R71), and the refill made of three (R151) -/

namespace Sys2Proof.Machine

/-- The low byte of a word that a read puts together. -/
theorem byte_or_shift_low (b : Byte) (hi : Word) : (b.setWidth 32 ||| hi <<< 8).extractLsb' 0 8 = b := by
  ext i h
  simp only [BitVec.getElem_extractLsb', BitVec.getLsbD_or, BitVec.getLsbD_shiftLeft, BitVec.getLsbD_setWidth]
  simp [h, show i < 32 by omega]

/-- Its other bytes are those of the rest of the read. -/
theorem byte_or_shift_succ (b : Byte) (hi : Word) {k : Nat} (hk : k < 3) :
    (b.setWidth 32 ||| hi <<< 8).extractLsb' (8 * (k + 1)) 8 = hi.extractLsb' (8 * k) 8 := by
  ext i h
  simp only [BitVec.getElem_extractLsb', BitVec.getLsbD_or, BitVec.getLsbD_shiftLeft, BitVec.getLsbD_setWidth]
  simp [show 8 * (k + 1) + i < 32 by omega, show ¬ 8 * (k + 1) + i < 8 by omega, show 8 * (k + 1) + i - 8 = 8 * k + i by omega,
    BitVec.getLsbD_of_ge b (8 * (k + 1) + i) (by omega)]

namespace State

/-- Byte `k` of a read is the byte at `a + k`, read after the bytes before it (R70, R71). -/
theorem readBytes_byte {n : Nat} : n ≤ 4 → ∀ {k : Nat}, k < n → ∀ (s : State) (a : Word),
    (s.readBytes a n).1.extractLsb' (8 * k) 8 = ((s.readBytes a k).2.busReadByte (a + BitVec.ofNat 32 k)).1 := by
  induction n with
  | zero => exact fun _ _ hk => absurd hk (Nat.not_lt_zero _)
  | succ n ih =>
    intro hn k hk s a
    cases k with
    | zero =>
      rw [BitVec.add_zero]
      exact byte_or_shift_low _ _
    | succ k =>
      rw [add_ofNat_succ]
      exact (byte_or_shift_succ _ _ (by omega)).trans (ih (by omega) (by omega) (s.busReadByte a).2 (a + 1))

/-- Where storage holds the bytes, a bus read gives them. -/
theorem memRead_byte {s t : State} {a : Word} {n : Nat} (hn : n ≤ 4) (hm : t.mem = s.mem) (hp : t.params = s.params)
    {k : Nat} (hk : k < n) (ha : isMemory (alignTo a n + BitVec.ofNat 32 k) = true) :
    (t.memRead a n).1.extractLsb' (8 * k) 8 = (s.busReadByte (alignTo a n + BitVec.ofNat 32 k)).1 := by
  obtain ⟨h, e⟩ := readBytes_frame k t (alignTo a n)
  exact (readBytes_byte hn hk t (alignTo a n)).trans (busReadByte_congr (by rw [e, hm]) (by rw [e, hp]) ha)

theorem isz_le (s : State) : s.isz ≤ 4 := by unfold isz; split <;> decide

/-- A refill changes only the pipeline, R15, the save history and the diagnostics (R151). -/
theorem frame_refill (s : State) : Frame s s.refill [] :=
  ⟨fun b _ hr _ => readBank_congr_of_ne (refill_gpr s) b hr, by constructor <;> simp, by constructor <;> simp,
    SameMemory.of_mem (refill_mem s) (refill_params s)⟩

end State

/-- Settles O5: the slots are three bus reads, a bus read gives the bytes that storage holds, and reads change only the save history
and the diagnostics. -/
theorem refillFetchesAtR15 : Obligations.RefillFetchesAtR15 := by
  intro s t n a b c one two
  obtain ⟨slotE, slotD, slotF, save⟩ := State.refill_slots s
  refine ⟨slotE, slotD, slotF, ?_, State.refill_r15 s, State.refill_pipeValid s, State.refill_pcWrite s, State.refill_cpsr s,
    State.frame_refill s, save⟩
  have bytes : ∀ (u : State) (x : Word), u.mem = s.mem → u.params = s.params →
      (∀ k < n, isMemory (alignTo x n + BitVec.ofNat 32 k) = true) →
      ∀ k < n, (u.memRead x n).1.extractLsb' (8 * k) 8 = (s.busReadByte (alignTo x n + BitVec.ofNat 32 k)).1 :=
    fun u x hm hp mem k hk => State.memRead_byte (State.isz_le s) hm hp hk (mem k hk)
  simp only [List.forall_mem_cons, List.not_mem_nil, false_implies, implies_true, and_true]
  exact ⟨slotE ▸ bytes s a rfl rfl, slotD ▸ bytes _ b rfl rfl, slotF ▸ bytes _ c rfl rfl⟩

end Sys2Proof.Machine

/-! ## The state after reset (R521 to R524) -/

namespace Sys2Proof.Machine

/-- A part of a memory without an address reads as unlisted there. -/
theorem Memory.read_filter_of_not {p : Host.Cell → Bool} {a : Nat} (hp : ∀ v, p (a, v) = false) (m : List Host.Cell) :
    Memory.read (m.filter p) a = Memory.unlisted := by
  induction m with
  | nil => rfl
  | cons cell rest ih =>
    obtain ⟨k, v⟩ := cell
    rw [List.filter_cons]
    split
    · next h =>
      have : k ≠ a := by rintro rfl; simp [hp] at h
      rw [Memory.read, if_neg this, ih]
    · exact ih

/-- RAM lies between the two images (R62). -/
theorem ramKey_bounds {a : Word} {k : Nat} (h : (region a).ramKey = some k) : 0x02000000 ≤ k ∧ k < 0x08000000 := by
  have bounds := region_inBounds a
  generalize region a = r at h bounds
  cases r <;> simp only [Region.ramKey, Region.inBounds, Option.some.injEq, reduceCtorEq] at h bounds <;> omega

theorem imageKey_ramKey {a : Word} {k : Nat} (h : (region a).ramKey = some k) (params : Config.Params) :
    imageKey params k = false := by
  have bounds := ramKey_bounds h
  simp [imageKey, show ¬ k < 0x4000 by omega, show ¬ 0x08000000 ≤ k by omega]

/-- A RAM byte is the byte of the memory list at its canonical address (R69). -/
theorem State.busReadByte_ramKey {a : Word} {k : Nat} (h : (region a).ramKey = some k) (s : State) :
    (s.busReadByte a).1 = Memory.read s.mem k := by
  unfold busReadByte
  generalize region a = r at h
  cases r <;> simp only [Region.ramKey, Option.some.injEq, reduceCtorEq] at h <;> subst h <;> rfl

/-- The registers after a direct boot: zero but for R15 and the three stack pointers (R522). -/
theorem State.readBank_reset (b : Bank) (r : Reg) : r ≠ 15 → (r = 13 → b = .fiq ∨ b = .abt ∨ b = .und) →
    State.reset.readBank b r = 0 := by
  revert r
  cases b <;> decide

section ResetWith

variable (params : Config.Params) (images : List Host.Cell) (save : Option (List Config.SaveEvent)) (keys : List (BitVec 10))

/-- Without a BIOS image the CPU starts as in `State.reset`, whatever the other parameters and inputs (R522). -/
theorem State.resetWith_direct (h : params.biosPresent = false) :
    (resetWith params images save keys).gpr = reset.gpr ∧ (resetWith params images save keys).r15 = reset.r15 ∧
      (resetWith params images save keys).cpsr = reset.cpsr := by
  simp [reset, resetWith, Config.defaultParams, h]

/-- With a BIOS image the registers are zero, in svc mode with I and F set (R521). -/
theorem State.resetWith_bios (h : params.biosPresent = true) :
    (resetWith params images save keys).gpr = .replicate 30 0 ∧ (resetWith params images save keys).r15 = 0 ∧
      (resetWith params images save keys).cpsr = Psr.ofWord 0x000000D3 := by
  simp only [resetWith, h, if_true, true_and]
  decide

theorem State.spsrOf_resetWith (b : Bank) :
    (resetWith params images save keys).spsrOf b = none ∨ (resetWith params images save keys).spsrOf b = some (Psr.ofWord 0) := by
  cases b with
  | usr => exact .inl rfl
  | _ => exact .inr rfl

/-- RAM is zero: the memory list holds image bytes only (R523). -/
theorem State.resetWith_ram {a : Word} (h : isRam a = true) : ((resetWith params images save keys).busReadByte a).1 = 0 := by
  obtain ⟨k, hk⟩ := Option.isSome_iff_exists.1 h
  rw [busReadByte_ramKey hk]
  exact Memory.read_filter_of_not (fun _ => imageKey_ramKey hk params) images

theorem PcInv.resetWith : PcInv (State.resetWith params images save keys) := by
  refine ⟨rfl, ?_⟩
  cases h : params.biosPresent with
  | false => obtain ⟨-, r15, cpsr⟩ := State.resetWith_direct params images save keys h; rw [r15, cpsr]; decide
  | true => obtain ⟨-, r15, cpsr⟩ := State.resetWith_bios params images save keys h; rw [r15, cpsr]; decide

theorem IrqInv.resetWith : IrqInv (State.resetWith params images save keys) := ⟨fun _ => BitVec.zero_and, BitVec.zero_and⟩

theorem LcdInv.resetWith : LcdInv (State.resetWith params images save keys) :=
  ⟨Nat.zero_lt_succ 227, Nat.zero_lt_succ 1231, rfl, rfl⟩

end ResetWith

/-- Settles O42: the fields that depend on no parameter by computation, the CPU by the two boot variants, RAM because the memory
list holds image bytes only. -/
theorem resetState : Obligations.ResetState := by
  intro params images save keys s
  have keyinput : s.readKeyinput = 0x03FF := (by decide : (~~~(0 : BitVec 10)).setWidth 16 = 0x03FF#16)
  have channels : ∀ n : Fin 4, s.dma[n] = DmaChannel.reset ∧ s.timers[n] = Timer.reset ∧
      s.lcd.bgcnt[n] = 0 ∧ s.lcd.bgXofs[n] = 0 ∧ s.lcd.bgYofs[n] = 0 := by
    intro n
    simp [s, State.resetWith, Lcd.reset]
  refine ⟨rfl, State.spsrOf_resetWith params images save keys, rfl, rfl, rfl, keyinput, rfl,
    fun _ => State.resetWith_ram params images save keys, rfl, rfl, rfl, rfl, rfl, channels,
    rfl, rfl, rfl, rfl, rfl, rfl, rfl, rfl, rfl, rfl, rfl, ?direct, ?bios, ?invariants⟩
  case direct =>
    intro noBios
    obtain ⟨gpr, r15, cpsr⟩ := State.resetWith_direct params images save keys noBios
    have regs : ∀ b r, s.readBank b r = State.reset.readBank b r := State.readBank_congr gpr r15
    exact ⟨r15, cpsr, regs .usr 13, regs .svc 13, regs .irq 13, fun b r h h' => (regs b r).trans (State.readBank_reset b r h h')⟩
  case bios =>
    intro biosPresent
    obtain ⟨gpr, r15, cpsr⟩ := State.resetWith_bios params images save keys biosPresent
    exact ⟨r15, cpsr, fun b r => by simp [s, State.readBank, gpr, r15]⟩
  case invariants =>
    exact fun wf => ⟨Memory.wf_filter _ wf, .resetWith params images save keys, .resetWith params images save keys,
      .resetWith params images save keys⟩

end Sys2Proof.Machine

/-! ## R15 is aligned between steps (R32, R151 to R154) -/

namespace Sys2Proof.Machine

/-- Clearing bits changes nothing exactly when they are clear. -/
theorem and_not_eq_self_iff {w : Nat} (a m : BitVec w) : a &&& ~~~m = a ↔ a &&& m = 0 := by
  constructor <;> intro h
  · rw [← h, BitVec.and_assoc]; simp
  · calc a &&& ~~~m = (a &&& ~~~m) ||| (a &&& m) := by rw [h]; simp
      _ = a := by rw [← BitVec.and_or_distrib_left]; simp

/-- The aligned addresses of a state are the multiples of its instruction size (R32). -/
theorem alignPc_eq_self_iff (t : Bool) (a : Word) : alignPc t a = a ↔ a.toNat % (if t then 2 else 4) = 0 := by
  have mask : alignPc t a = a &&& ~~~(if t then 1 else 3) := by cases t <;> rfl
  rw [mask, and_not_eq_self_iff, ← BitVec.toNat_inj, BitVec.toNat_and]
  cases t
  · exact iff_of_eq (congrArg (· = 0) (Nat.and_two_pow_sub_one_eq_mod _ 2))
  · exact iff_of_eq (congrArg (· = 0) (Nat.and_two_pow_sub_one_eq_mod _ 1))

@[simp] theorem alignPc_alignPc (t : Bool) (a : Word) : alignPc t (alignPc t a) = alignPc t a := by
  cases t <;> simp [alignPc, BitVec.and_assoc]

namespace State

/-! No operation of an instruction changes R15 itself: `writeReg`, `writeRegs` and `branchTo` record a write in `pcWrite` (log 31). -/

@[simp] theorem restoreFromSpsr_r15 (s : State) : s.restoreFromSpsr.r15 = s.r15 := by
  unfold restoreFromSpsr; split <;> simp

@[simp] theorem takeException_r15 (s : State) (e : Exc) (ret : Word) : (s.takeException e ret).r15 = s.r15 := by
  simp [takeException]

@[simp] theorem aluWrite_r15 (s : State) (sf : Bool) (rd : Reg) (v : Word) (g : Psr → Psr) :
    (s.aluWrite sf rd v g).r15 = s.r15 := by simp [aluWrite, apply_ite r15]

@[simp] theorem aluLogical_r15 (s : State) (f : Word → Word → Word) (sf : Bool) (rn rd : Reg) (o : Operand2) :
    (s.aluLogical f sf rn rd o).r15 = s.r15 := aluWrite_r15 ..

@[simp] theorem aluMove_r15 (s : State) (f : Word → Word) (sf : Bool) (rd : Reg) (o : Operand2) :
    (s.aluMove f sf rd o).r15 = s.r15 := aluWrite_r15 ..

@[simp] theorem aluArith_r15 (s : State) (f : Word → Word → Bool → Sum) (sf : Bool) (rn rd : Reg) (o : Operand2) :
    (s.aluArith f sf rn rd o).r15 = s.r15 := aluWrite_r15 ..

@[simp] theorem aluTest_r15 (s : State) (f : Word → Word → Word) (rn : Reg) (o : Operand2) :
    (s.aluTest f rn o).r15 = s.r15 := rfl

@[simp] theorem aluCompare_r15 (s : State) (f : Word → Word → Bool → Sum) (rn : Reg) (o : Operand2) :
    (s.aluCompare f rn o).r15 = s.r15 := rfl

@[simp] theorem mulWrite_r15 (s : State) (sf : Bool) (rd : Reg) (v : Word) : (s.mulWrite sf rd v).r15 = s.r15 := by
  simp [mulWrite, apply_ite r15]

@[simp] theorem mullWrite_r15 (s : State) (sf : Bool) (rdHi rdLo : Reg) (v : BitVec 64) :
    (s.mullWrite sf rdHi rdLo v).r15 = s.r15 := by simp [mullWrite, apply_ite r15]

@[simp] theorem mrsSpsr_r15 (s : State) (rd : Reg) : (s.mrsSpsr rd).r15 = s.r15 := by
  unfold mrsSpsr; split <;> simp

@[simp] theorem msrSpsr_r15 (s : State) (mask : BitVec 4) (v : Word) : (s.msrSpsr mask v).r15 = s.r15 := by
  unfold msrSpsr; split <;> simp

@[simp] theorem msrCpsr_r15 (s : State) (mask : BitVec 4) (v : Word) : (s.msrCpsr mask v).r15 = s.r15 := by
  simp [msrCpsr, apply_ite r15]

@[simp] theorem branchExchange_r15 (s : State) (v : Word) : (s.branchExchange v).r15 = s.r15 := rfl

@[simp] theorem loadWord_r15 (s : State) (ea : Word) : (s.loadWord ea).2.r15 = s.r15 := memRead_r15 s ea 4

@[simp] theorem loadHalf_r15 (s : State) (ea : Word) : (s.loadHalf ea).2.r15 = s.r15 := memRead_r15 s ea 2

@[simp] theorem loadByte_r15 (s : State) (ea : Word) : (s.loadByte ea).2.r15 = s.r15 := memRead_r15 s ea 1

@[simp] theorem loadByteSigned_r15 (s : State) (ea : Word) : (s.loadByteSigned ea).2.r15 = s.r15 := memRead_r15 s ea 1

@[simp] theorem loadHalfSigned_r15 (s : State) (ea : Word) : (s.loadHalfSigned ea).2.r15 = s.r15 := by
  unfold loadHalfSigned; split <;> simp

@[simp] theorem storeWord_r15 (s : State) (ea v : Word) : (s.storeWord ea v).r15 = s.r15 := memWrite_r15 s ea 4 v

@[simp] theorem storeHalf_r15 (s : State) (ea v : Word) : (s.storeHalf ea v).r15 = s.r15 := memWrite_r15 s ea 2 v

@[simp] theorem storeByte_r15 (s : State) (ea v : Word) : (s.storeByte ea v).r15 = s.r15 := memWrite_r15 s ea 1 v

@[simp] theorem loadTransfer_r15 {load : State → Word → Word × State} (h : ∀ s ea, (load s ea).2.r15 = s.r15) (s : State)
    (ad : Address) (rn rd : Reg) : (s.loadTransfer load ad rn rd).r15 = s.r15 := by simp [loadTransfer, apply_ite r15, h]

@[simp] theorem storeTransfer_r15 {store : State → Word → Word → State} (h : ∀ s ea v, (store s ea v).r15 = s.r15) (s : State)
    (ad : Address) (rn rd : Reg) : (s.storeTransfer store ad rn rd).r15 = s.r15 := by simp [storeTransfer, apply_ite r15, h]

@[simp] theorem swap_r15 {load : State → Word → Word × State} {store : State → Word → Word → State}
    (hl : ∀ s ea, (load s ea).2.r15 = s.r15) (hs : ∀ s ea v, (store s ea v).r15 = s.r15) (s : State) (rn rd rm : Reg) :
    (s.swap load store rn rd rm).r15 = s.r15 := by simp [swap, hl, hs]

@[simp] theorem noteEmptyList_r15 (s : State) : s.noteEmptyList.r15 = s.r15 := rfl

@[simp] theorem ldmList_r15 (s : State) (p u sb w : Bool) (rn : Reg) (list : BitVec 16) :
    (s.ldmList p u sb w rn list).r15 = s.r15 := by simp [ldmList, apply_ite r15]

@[simp] theorem ldmEmpty_r15 (s : State) (p u sb w : Bool) (rn : Reg) : (s.ldmEmpty p u sb w rn).r15 = s.r15 := by
  simp [ldmEmpty, apply_ite r15]

@[simp] theorem stmList_r15 (s : State) (p u sb w : Bool) (rn : Reg) (list : BitVec 16) :
    (s.stmList p u sb w rn list).r15 = s.r15 := by simp [stmList, apply_ite r15]

@[simp] theorem stmEmpty_r15 (s : State) (p u w : Bool) (rn : Reg) : (s.stmEmpty p u w rn).r15 = s.r15 := by
  simp [stmEmpty, apply_ite r15]

@[simp] theorem tLogical_r15 (s : State) (rd : LowReg) (r : Word × Option Bool) : (s.tLogical rd r).r15 = s.r15 := by
  simp [tLogical]

@[simp] theorem tArith_r15 (s : State) (rd : LowReg) (r : Sum) : (s.tArith rd r).r15 = s.r15 := by simp [tArith]

@[simp] theorem tLoad_r15 {load : State → Word → Word × State} (h : ∀ s ea, (load s ea).2.r15 = s.r15) (s : State)
    (ea : Word) (rd : LowReg) : (s.tLoad load ea rd).r15 = s.r15 := by simp [tLoad, h]

@[simp] theorem tStore_r15 {store : State → Word → Word → State} (h : ∀ s ea v, (store s ea v).r15 = s.r15) (s : State)
    (ea : Word) (rd : LowReg) : (s.tStore store ea rd).r15 = s.r15 := h ..

@[simp] theorem pushRegs_r15 (s : State) (rs : List Reg) : (s.pushRegs rs).r15 = s.r15 := by simp [pushRegs]

@[simp] theorem pushEmpty_r15 (s : State) : s.pushEmpty.r15 = s.r15 := by simp [pushEmpty]

@[simp] theorem popRegs_r15 (s : State) (rs : List Reg) : (s.popRegs rs).r15 = s.r15 := by simp [popRegs]

@[simp] theorem loadPcAlone_r15 (s : State) (rb : Reg) : (s.loadPcAlone rb).r15 = s.r15 := by simp [loadPcAlone]

@[simp] theorem stmiaList_r15 (s : State) (rb : Reg) (rs : List Reg) : (s.stmiaList rb rs).r15 = s.r15 := by simp [stmiaList]

@[simp] theorem stmiaEmpty_r15 (s : State) (rb : Reg) : (s.stmiaEmpty rb).r15 = s.r15 := by simp [stmiaEmpty]

@[simp] theorem ldmiaList_r15 (s : State) (rb : Reg) (rs : List Reg) : (s.ldmiaList rb rs).r15 = s.r15 := by simp [ldmiaList]

end State

/-- The state before the end of an ARM instruction's step, R15 still where it was; a failed condition is no operation at all (R156). -/
theorem execArm_finish {c : Cond} {op : State → State} {s t : State} (keeps : ∀ u, (op u).r15 = u.r15)
    (h : execArm c op s = .next t) : ∃ x : State, x.r15 = s.r15 ∧ t = x.finish s.cpsr.t := by
  cases hc : condPassed s.cpsr c with
  | true =>
    rw [execArm_pass hc] at h
    exact ⟨_, by simp [keeps], (Host.Outcome.next.inj h).symm⟩
  | false =>
    rw [execArm_fail hc] at h
    exact ⟨s.begin, rfl, (Host.Outcome.next.inj h).symm.trans (State.finish_none rfl rfl).symm⟩

theorem execThumb_finish {op : State → State} {s t : State} (keeps : ∀ u, (op u).r15 = u.r15) (h : execThumb op s = .next t) :
    ∃ x : State, x.r15 = s.r15 ∧ t = x.finish s.cpsr.t :=
  ⟨op s.begin, by simp [keeps], (Host.Outcome.next.inj h).symm⟩

/-- Every instruction leaves R15 to the end of its step (R152 to R155). -/
theorem exec_finish {i : Instr} {s t : State} (h : exec i s = .next t) : ∃ x : State, x.r15 = s.r15 ∧ t = x.finish s.cpsr.t := by
  unfold exec at h
  cases i with
  | and | eor | orr | bic | mov | mvn | sub | rsb | add | adc | sbc | rsc | tst | teq | cmp | cmn | mul | mla | umull | umlal
  | smull | smlal | mrs | msr | b | bl | bx | swi | undefHalf | undefMul | undefMedia | cdp | ldc | stc | mrc | mcr | ldr | ldrt
  | ldrb | ldrbt | ldrh | ldrsb | ldrsh | str | strt | strb | strbt | strh | swp | swpb | ldm | stm =>
    exact execArm_finish (fun u => by simp [apply_ite State.r15, State.raiseSwi]) h
  | _ => exact execThumb_finish (fun u => by simp [apply_ite State.r15, State.raiseSwi, State.tShiftReg]) h

/-! ## What a step can do (R150, R500) -/

/-- A system step: the key sample, one CPU step, the device phases for its cycles (R500). -/
theorem step_next {s t : State} (h : step s = .next t) :
    ∃ u k, s.sampleKeys.cpuStep = .next (u, k) ∧ t = u.devices (cyclesOf s.sampleKeys.params.cycles k) := by
  unfold step State.systemStep at h
  simp only at h
  split at h
  · next u k hc => exact ⟨u, k, hc, (Host.Outcome.next.inj h).symm⟩
  all_goals cases h

/-- What a CPU step does, and of which kind it is: one of four things, tested in this order (R150). -/
inductive CpuStep (s : State) : State → Config.StepKind → Prop
  | halted (halted : s.halted = true) : CpuStep s s .halted
  | irqEntry (awake : s.halted = false) (irq : s.irqTaken = true) : CpuStep s s.irqEntry .irqEntry
  | refill (awake : s.halted = false) (quiet : s.irqTaken = false) (invalid : s.pipeValid = false) : CpuStep s s.refill .refill
  | execute {t : State} (awake : s.halted = false) (quiet : s.irqTaken = false) (valid : s.pipeValid = true)
      (run : exec s.current s = .next t) : CpuStep s t s.executeKind

theorem CpuStep.of_next {s t : State} {k : Config.StepKind} (h : s.cpuStep = .next (t, k)) : CpuStep s t k := by
  unfold State.cpuStep at h
  split at h
  · next halted => cases h; exact .halted halted
  next awake =>
  split at h
  · next irq => cases h; exact .irqEntry (by simpa using awake) irq
  next quiet =>
  split at h
  · next invalid => cases h; exact .refill (by simpa using awake) (by simpa using quiet) (by simpa using invalid)
  next valid =>
  unfold State.execute at h
  split at h
  · next run => cases h; exact .execute (by simpa using awake) (by simpa using quiet) (by simpa using valid) run
  all_goals cases h

/-! ## The invariant -/

/-- Aligned addresses stay aligned under addition; so R15 stays aligned when it goes up by aligned steps (R152). -/
theorem alignPc_add {t : Bool} {a b : Word} (ha : alignPc t a = a) (hb : alignPc t b = b) : alignPc t (a + b) = a + b := by
  rw [alignPc_eq_self_iff] at *
  rw [BitVec.toNat_add]
  cases t <;> simp only [if_true, if_false, Bool.false_eq_true] at * <;> omega

theorem alignPc_iszWord (s : State) : alignPc s.cpsr.t s.iszWord = s.iszWord := by
  unfold State.iszWord
  cases s.cpsr.t <;> rfl

namespace PcInv

/-- The CPU's own fields decide it, so the device phases and the key sample keep it. -/
theorem congr {s t : State} (h : PcInv s) (g : SameCpu s t) : PcInv t := by
  unfold PcInv at *
  rwa [g.pcWrite, g.cpsr, g.r15]

theorem applyPc (s : State) (v : Word) : PcInv (s.applyPc v) := ⟨rfl, by simp⟩

theorem advance {s : State} (h : PcInv s) : PcInv s.advance := by
  obtain ⟨noPc, aligned⟩ := h
  exact ⟨by simp [noPc], by simp [alignPc_add aligned.symm (alignPc_iszWord s)]⟩

theorem refill {s : State} (h : PcInv s) : PcInv s.refill := by
  obtain ⟨noPc, aligned⟩ := h
  have twice : alignPc s.cpsr.t (2#32 * s.iszWord) = 2#32 * s.iszWord := by
    rw [BitVec.two_mul]; exact alignPc_add (alignPc_iszWord s) (alignPc_iszWord s)
  exact ⟨by simp [noPc], by simp [alignPc_add aligned.symm twice]⟩

/-- The end of an executing step leaves R15 aligned by the state it leaves, if the operation left R15 where it was: a recorded write
and a bare change of T are aligned (R153, R154), and an advance goes on from the aligned R15 (R152). -/
theorem finish {s x : State} (h : PcInv s) (hx : x.r15 = s.r15) : PcInv (x.finish s.cpsr.t) := by
  cases hw : x.pcWrite with
  | some v => rw [State.finish_some hw]; exact applyPc x v
  | none =>
    by_cases ht : x.cpsr.t = s.cpsr.t
    · rw [State.finish_none hw ht]
      exact advance ⟨hw, by rw [hx, ht]; exact h.2⟩
    · rw [State.finish_realign hw ht]
      exact ⟨hw, by simp⟩

theorem cpuStep {s t : State} {k : Config.StepKind} (h : PcInv s) (hc : CpuStep s t k) : PcInv t := by
  cases hc with
  | halted => exact h
  | irqEntry => exact applyPc _ _
  | refill => exact h.refill
  | execute _ _ _ run =>
    obtain ⟨x, hx, rfl⟩ := exec_finish run
    exact h.finish hx

end PcInv

/-- Settles O45: a CPU step aligns R15 however it ends, and the rest of a system step leaves the CPU alone. -/
theorem stepKeepsPcAligned : Obligations.StepKeepsPcAligned := by
  intro s t h hs
  obtain ⟨u, k, hc, rfl⟩ := step_next hs
  exact ((h.congr (SameCpu.sampleKeys s)).cpuStep (.of_next hc)).congr (SameCpu.devices u _)

end Sys2Proof.Machine

/-! ## Decode after encode (R113 to R134)

Both decoders are chains of tests `w &&& m = p`. A word that meets one test answers the tests its bits decide (`mask_holds`,
`mask_fails`), so one equation per test says where the chain goes; an encoded word then needs its head and its fields. -/

namespace Sys2Proof

/-- A test that asks for no more than a test that holds. -/
theorem mask_holds {n : Nat} {w m p m' p' : BitVec n} (h : w &&& m = p) (hm : m &&& m' = m') (hp : p &&& m' = p') :
    w &&& m' = p' := by
  rw [← hp, ← h, BitVec.and_assoc, hm]

/-- A test that asks for other bits than a test that holds. -/
theorem mask_fails {n : Nat} {w m p m' p' : BitVec n} (h : w &&& m = p) (hp : p &&& m' ≠ p' &&& m) : ¬ w &&& m' = p' := by
  rintro rfl
  refine hp ?_
  rw [← h, BitVec.and_assoc, BitVec.and_assoc, BitVec.and_comm m]

/-- A test that asks for more than a test that fails. -/
theorem mask_fails_of_weaker {n : Nat} {w m p m' p' : BitVec n} (h : ¬ w &&& m = p) (hm : m' &&& m = m) (hp : p' &&& m = p) :
    ¬ w &&& m' = p' :=
  fun h' => h (mask_holds h' hm hp)

/-- A piece under the top piece fills the rest of the word. -/
theorem place_or_place_eq_append {j k : Nat} (a : BitVec j) (b : BitVec k) :
    place (j + k) k a ||| place (j + k) 0 b = a ++ b := by
  apply BitVec.eq_of_getLsbD_eq
  intro i hi
  rw [BitVec.getLsbD_or, getLsbD_place, getLsbD_place, BitVec.getLsbD_append]
  by_cases hk : i < k
  · simp [hi, hk, Nat.not_le.mpr hk]
  · simp [hi, hk, Nat.le_of_not_lt hk]

/-- A test of a word of two pieces tests each piece. -/
theorem place_or_place_test_iff {n j k : Nat} (hn : j + k = n) {a : BitVec j} {b : BitVec k} {m p : BitVec n} :
    (place n k a ||| place n 0 b) &&& m = p ↔ a &&& fld m k j = fld p k j ∧ b &&& fld m 0 k = fld p 0 k := by
  subst hn
  have split (v : BitVec (j + k)) : fld v k j ++ fld v 0 k = v := BitVec.extractLsb'_append_extractLsb'
  rw [place_or_place_eq_append]
  constructor
  · rintro rfl
    simp only [BitVec.extractLsb'_and, BitVec.extractLsb'_append_eq_left, BitVec.extractLsb'_append_eq_right, and_self]
  · rintro ⟨hi, lo⟩
    rw [← split p, ← hi, ← lo, ← BitVec.and_append, split m]

/-! ### Where DecodeTHUMB goes: one equation per test of R132 -/

section ThumbTests

variable {h : Half}

theorem decodeThumb_of_t2 (ht : h &&& 0xF800#16 = 0x1800#16) : decodeThumb h = decodeT2 h := if_pos ht

theorem decodeThumb_of_t1 (ht : h &&& 0xE000#16 = 0x0000#16) (h2 : ¬ h &&& 0xF800#16 = 0x1800#16) :
    decodeThumb h = decodeT1 h := by
  simp [decodeThumb, ht, h2]

theorem decodeThumb_of_t3 (ht : h &&& 0xE000#16 = 0x2000#16) : decodeThumb h = decodeT3 h := by
  simp (disch := decide) [decodeThumb, ht, mask_fails ht]

theorem decodeThumb_of_t4 (ht : h &&& 0xFC00#16 = 0x4000#16) : decodeThumb h = decodeT4 h := by
  simp (disch := decide) [decodeThumb, ht, mask_fails ht]

theorem decodeThumb_of_t5 (ht : h &&& 0xFC00#16 = 0x4400#16) : decodeThumb h = decodeT5 h := by
  simp (disch := decide) [decodeThumb, ht, mask_fails ht]

theorem decodeThumb_of_t6 (ht : h &&& 0xF800#16 = 0x4800#16) : decodeThumb h = .tLdrPc (fld h 8 3) (fld h 0 8) := by
  simp (disch := decide) [decodeThumb, ht, mask_fails ht]

theorem decodeThumb_of_t7 (ht : h &&& 0xF200#16 = 0x5000#16) : decodeThumb h = decodeT7 h := by
  simp (disch := decide) [decodeThumb, ht, mask_fails ht]

theorem decodeThumb_of_t8 (ht : h &&& 0xF200#16 = 0x5200#16) : decodeThumb h = decodeT8 h := by
  simp (disch := decide) [decodeThumb, ht, mask_fails ht]

theorem decodeThumb_of_t9 (ht : h &&& 0xE000#16 = 0x6000#16) : decodeThumb h = decodeT9 h := by
  simp (disch := decide) [decodeThumb, ht, mask_fails ht]

theorem decodeThumb_of_t10 (ht : h &&& 0xF000#16 = 0x8000#16) : decodeThumb h =
    if h.getLsbD 11 then .tLdrhImm (fld h 6 5) (fld h 3 3) (fld h 0 3)
    else .tStrhImm (fld h 6 5) (fld h 3 3) (fld h 0 3) := by
  simp (disch := decide) [decodeThumb, ht, mask_fails ht]

theorem decodeThumb_of_t11 (ht : h &&& 0xF000#16 = 0x9000#16) : decodeThumb h =
    if h.getLsbD 11 then .tLdrSp (fld h 8 3) (fld h 0 8) else .tStrSp (fld h 8 3) (fld h 0 8) := by
  simp (disch := decide) [decodeThumb, ht, mask_fails ht]

theorem decodeThumb_of_t12 (ht : h &&& 0xF000#16 = 0xA000#16) : decodeThumb h =
    if h.getLsbD 11 then .tAddSp (fld h 8 3) (fld h 0 8) else .tAddPc (fld h 8 3) (fld h 0 8) := by
  simp (disch := decide) [decodeThumb, ht, mask_fails ht]

theorem decodeThumb_of_t13 (ht : h &&& 0xFF00#16 = 0xB000#16) : decodeThumb h =
    if h.getLsbD 7 then .tSubSpImm (fld h 0 7) else .tAddSpImm (fld h 0 7) := by
  simp (disch := decide) [decodeThumb, ht, mask_fails ht]

theorem decodeThumb_of_t14 (ht : h &&& 0xF600#16 = 0xB400#16) : decodeThumb h =
    if h.getLsbD 11 then .tPop (h.getLsbD 8) (fld h 0 8) else .tPush (h.getLsbD 8) (fld h 0 8) := by
  simp (disch := decide) [decodeThumb, ht, mask_fails ht]

theorem decodeThumb_of_tB (ht : h &&& 0xF000#16 = 0xB000#16) (h13 : ¬ h &&& 0xFF00#16 = 0xB000#16)
    (h14 : ¬ h &&& 0xF600#16 = 0xB400#16) : decodeThumb h = .tUndefB (fld h 0 12) := by
  simp (disch := decide) [decodeThumb, ht, mask_fails ht, h13, h14]

theorem decodeThumb_of_t15 (ht : h &&& 0xF000#16 = 0xC000#16) : decodeThumb h =
    if h.getLsbD 11 then .tLdmia (fld h 8 3) (fld h 0 8) else .tStmia (fld h 8 3) (fld h 0 8) := by
  simp (disch := decide) [decodeThumb, ht, mask_fails ht]

theorem decodeThumb_of_t17 (ht : h &&& 0xFF00#16 = 0xDF00#16) : decodeThumb h = .tSwi (fld h 0 8) := by
  simp (disch := decide) [decodeThumb, ht, mask_fails ht]

theorem decodeThumb_of_tDE (ht : h &&& 0xFF00#16 = 0xDE00#16) : decodeThumb h = .tUndefDE (fld h 0 8) := by
  simp (disch := decide) [decodeThumb, ht, mask_fails ht]

theorem decodeThumb_of_t16 (ht : h &&& 0xF000#16 = 0xD000#16) (h17 : ¬ h &&& 0xFF00#16 = 0xDF00#16)
    (hDE : ¬ h &&& 0xFF00#16 = 0xDE00#16) : decodeThumb h = .tBcond (.ofCode (fld h 8 4)) (fld h 0 8) := by
  simp (disch := decide) [decodeThumb, ht, mask_fails ht, h17, hDE]

theorem decodeThumb_of_t18 (ht : h &&& 0xF800#16 = 0xE000#16) : decodeThumb h = .tB (fld h 0 11) := by
  simp (disch := decide) [decodeThumb, ht, mask_fails ht]

theorem decodeThumb_of_tE8 (ht : h &&& 0xF800#16 = 0xE800#16) : decodeThumb h = .tUndefE8 (fld h 0 11) := by
  simp (disch := decide) [decodeThumb, ht, mask_fails ht]

theorem test_blPair_iff : h &&& 0xF000#16 = 0xF000#16 ↔
    h.getLsbD 12 = true ∧ h.getLsbD 13 = true ∧ h.getLsbD 14 = true ∧ h.getLsbD 15 = true := by
  rw [mask_eq_iff]
  simp only [Nat.forall_lt_succ_right]
  simp [and_assoc]

theorem decodeThumb_of_t19 (ht : h &&& 0xF000#16 = 0xF000#16) : decodeThumb h =
    if h.getLsbD 11 then .tBlSuffix (fld h 0 11) else .tBlPrefix (fld h 0 11) := by
  simp (disch := decide) [decodeThumb, mask_fails ht]

end ThumbTests

/-! ### Heads and fields of the THUMB encodings -/

theorem encodeT3Reg_head (head x : BitVec 5) (rs rd : LowReg) :
    encodeT3Reg head x rs rd &&& 0xF800#16 = place 16 11 head := by
  rw [mask_eq_iff]
  simp only [Nat.forall_lt_succ_right]
  simp [encodeT3Reg, getElem_place]

theorem encodeT3Reg_fields (head x : BitVec 5) (rs rd : LowReg) : let h := encodeT3Reg head x rs rd
    h[11] = head[0] ∧ h[12] = head[1] ∧ fld h 6 5 = x ∧ fld h 3 3 = rs ∧ fld h 0 3 = rd := by
  simp (disch := omega) [encodeT3Reg, getElem_place, fld_or, fld_place_same, fld_place_disjoint]

theorem encodeTRegByte_head (head : BitVec 5) (rd : LowReg) (x : BitVec 8) :
    encodeTRegByte head rd x &&& 0xF800#16 = place 16 11 head := by
  rw [mask_eq_iff]
  simp only [Nat.forall_lt_succ_right]
  simp [encodeTRegByte, getElem_place]

theorem encodeTRegByte_fields (head : BitVec 5) (rd : LowReg) (x : BitVec 8) : let h := encodeTRegByte head rd x
    h[11] = head[0] ∧ h[12] = head[1] ∧ fld h 8 3 = rd ∧ fld h 0 8 = x := by
  simp (disch := omega) [encodeTRegByte, getElem_place, fld_or, fld_place_same, fld_place_disjoint]

theorem encodeT3Low_head (head : BitVec 7) (x rs rd : LowReg) :
    encodeT3Low head x rs rd &&& 0xFE00#16 = place 16 9 head := by
  rw [mask_eq_iff]
  simp only [Nat.forall_lt_succ_right]
  simp [encodeT3Low, getElem_place]

theorem encodeT3Low_fields (head : BitVec 7) (x rs rd : LowReg) : let h := encodeT3Low head x rs rd
    h[9] = head[0] ∧ h[10] = head[1] ∧ h[11] = head[2] ∧ fld h 6 3 = x ∧ fld h 3 3 = rs ∧ fld h 0 3 = rd := by
  simp (disch := omega) [encodeT3Low, getElem_place, fld_or, fld_place_same, fld_place_disjoint]

theorem encodeT4_head (op : BitVec 4) (rs rd : LowReg) : encodeT4 op rs rd &&& 0xFC00#16 = 0x4000#16 := by
  rw [test_t4_iff]
  simp [encodeT4, getElem_place]

theorem encodeT4_fields (op : BitVec 4) (rs rd : LowReg) : let h := encodeT4 op rs rd
    fld h 6 4 = op ∧ fld h 3 3 = rs ∧ fld h 0 3 = rd := by
  simp (disch := omega) [encodeT4, fld_or, fld_place_same, fld_place_disjoint]

theorem encodeT5_head (op : BitVec 2) (rs rd : Reg) : encodeT5 op rs rd &&& 0xFC00#16 = 0x4400#16 := by
  rw [test_t5_iff]
  simp [encodeT5, getElem_place]

/-- The two pieces of Rd, put together again. -/
theorem reg_of_pieces (rd : Reg) : fld rd 3 1 ++ fld rd 0 3 = rd := by
  revert rd; decide

theorem encodeT5_fields (op : BitVec 2) (rs rd : Reg) : let h := encodeT5 op rs rd
    h[8] = op[0] ∧ h[9] = op[1] ∧ fld h 3 4 = rs ∧ fld h 7 1 = fld rd 3 1 ∧ fld h 0 3 = fld rd 0 3 := by
  simp (disch := omega) [encodeT5, getElem_place, fld_or, fld_place_same, fld_place_disjoint]

/-! ### Every THUMB instruction -/

theorem decode_thumb_of_decodeThumb {h : Half} {i : Instr} (hd : decodeThumb h = i) :
    decode true (Encoded.thumb h).bytes = .ok (i, []) := by
  rw [decode_thumb_bytes, hd]

/-- The rest of 0xB000 to 0xBFFF (R133). -/
theorem decodeThumb_undefB {raw : BitVec 12} (h : undefBOk raw = true) :
    decodeThumb (place 16 12 0xB#4 ||| place 16 0 raw) = .tUndefB raw := by
  obtain ⟨h13, h14⟩ : ¬ raw &&& 0xF00#12 = 0 ∧ ¬ raw &&& 0x600#12 = 0x400#12 := by simpa [undefBOk] using h
  have test (m p : Half) := place_or_place_test_iff (show 4 + 12 = 16 from rfl) (a := 0xB#4) (b := raw) (m := m) (p := p)
  rw [decodeThumb_of_tB ((test _ _).2 ⟨by decide, BitVec.and_zero⟩) (fun h => h13 ((test _ _).1 h).2)
    (fun h => h14 ((test _ _).1 h).2)]
  simp (disch := omega) [fld_or, fld_place_same, fld_place_disjoint]

theorem bcond_head (c : Cond) (off : BitVec 8) :
    (place 16 12 0xD#4 ||| place 16 8 c.code ||| place 16 0 off) &&& 0xFF00#16 = place 16 12 0xD#4 ||| place 16 8 c.code := by
  rw [mask_eq_iff]
  simp only [Nat.forall_lt_succ_right]
  simp [getElem_place]

/-- Format 16 with a condition that R131 gives it: the heads 0xDE and 0xDF are the undefined row and SWI. -/
theorem decodeThumb_bcond {c : Cond} (hc : bcondOk c = true) (off : BitVec 8) :
    decodeThumb (place 16 12 0xD#4 ||| place 16 8 c.code ||| place 16 0 off) = .tBcond c off := by
  have head := bcond_head c off
  generalize hx : place 16 12 0xD#4 ||| place 16 8 c.code = x at head
  obtain ⟨test, notSwi, notDE⟩ : x &&& 0xF000#16 = 0xD000#16 ∧ x &&& 0xFF00#16 ≠ 0xDF00#16 &&& 0xFF00#16 ∧
      x &&& 0xFF00#16 ≠ 0xDE00#16 &&& 0xFF00#16 := by
    subst hx
    revert hc
    cases c <;> decide
  rw [decodeThumb_of_t16 (mask_holds head rfl test) (mask_fails head notSwi) (mask_fails head notDE), ← hx]
  simp (disch := omega) [fld_or, fld_place_same, fld_place_disjoint, cond_ofCode_code]

/-- Settles O3: the head of each format selects its test of R132, and the fields give the operands back. -/
theorem thumbEncodeDecode : Obligations.ThumbEncodeDecode := by
  intro i thumb wf
  cases i with
  | tAddReg | tSubReg | tAddImm3 | tSubImm3 =>
    refine decode_thumb_of_decodeThumb ?_
    rw [decodeThumb_of_t2 (mask_holds (encodeT3Low_head _ _ _ _) (by decide) (by decide))]
    simp [decodeT2, encodeT3Low_fields]
  | tLslImm | tLsrImm | tAsrImm =>
    refine decode_thumb_of_decodeThumb ?_
    rw [decodeThumb_of_t1 (mask_holds (encodeT3Reg_head _ _ _ _) (by decide) (by decide))
      (mask_fails (encodeT3Reg_head _ _ _ _) (by decide))]
    simp [decodeT1, encodeT3Reg_fields]
  | tMovImm | tCmpImm | tAddImm8 | tSubImm8 =>
    refine decode_thumb_of_decodeThumb ?_
    rw [decodeThumb_of_t3 (mask_holds (encodeTRegByte_head _ _ _) (by decide) (by decide))]
    simp [decodeT3, encodeTRegByte_fields]
  | tAnd | tEor | tLsl | tLsr | tAsr | tAdc | tSbc | tRor | tTst | tNeg | tCmp | tCmn | tOrr | tMul | tBic | tMvn =>
    refine decode_thumb_of_decodeThumb ?_
    rw [decodeThumb_of_t4 (encodeT4_head _ _ _)]
    simp [decodeT4, encodeT4_fields]
  | tAddHi | tCmpHi | tMovHi | tBx =>
    refine decode_thumb_of_decodeThumb ?_
    rw [decodeThumb_of_t5 (encodeT5_head _ _ _)]
    simp [decodeT5, encodeT5_fields, reg_of_pieces]
  | tLdrPc =>
    refine decode_thumb_of_decodeThumb ?_
    rw [decodeThumb_of_t6 (mask_holds (encodeTRegByte_head _ _ _) (by decide) (by decide))]
    simp [encodeTRegByte_fields]
  | tStrReg | tStrbReg | tLdrReg | tLdrbReg =>
    refine decode_thumb_of_decodeThumb ?_
    rw [decodeThumb_of_t7 (mask_holds (encodeT3Low_head _ _ _ _) (by decide) (by decide))]
    simp [decodeT7, encodeT3Low_fields]
  | tStrhReg | tLdrhReg | tLdsbReg | tLdshReg =>
    refine decode_thumb_of_decodeThumb ?_
    rw [decodeThumb_of_t8 (mask_holds (encodeT3Low_head _ _ _ _) (by decide) (by decide))]
    simp [decodeT8, encodeT3Low_fields]
  | tStrImm | tLdrImm | tStrbImm | tLdrbImm =>
    refine decode_thumb_of_decodeThumb ?_
    rw [decodeThumb_of_t9 (mask_holds (encodeT3Reg_head _ _ _ _) (by decide) (by decide))]
    simp [decodeT9, encodeT3Reg_fields]
  | tStrhImm | tLdrhImm =>
    refine decode_thumb_of_decodeThumb ?_
    rw [decodeThumb_of_t10 (mask_holds (encodeT3Reg_head _ _ _ _) (by decide) (by decide))]
    simp [encodeT3Reg_fields]
  | tStrSp | tLdrSp =>
    refine decode_thumb_of_decodeThumb ?_
    rw [decodeThumb_of_t11 (mask_holds (encodeTRegByte_head _ _ _) (by decide) (by decide))]
    simp [encodeTRegByte_fields]
  | tAddPc | tAddSp =>
    refine decode_thumb_of_decodeThumb ?_
    rw [decodeThumb_of_t12 (mask_holds (encodeTRegByte_head _ _ _) (by decide) (by decide))]
    simp [encodeTRegByte_fields]
  | tAddSpImm | tSubSpImm =>
    refine decode_thumb_of_decodeThumb ?_
    rw [decodeThumb_of_t13 (by simp [test_t13_iff, getElem_place, getElem_placeBit])]
    simp (disch := omega) [getElem_place, getElem_placeBit, fld_or, fld_place_same, fld_place_disjoint, fld_placeBit_disjoint]
  | tPush | tPop =>
    refine decode_thumb_of_decodeThumb ?_
    rw [decodeThumb_of_t14 (by simp [test_t14_iff, getElem_place, getElem_placeBit])]
    simp (disch := omega) [getElem_place, getElem_placeBit, fld_or, fld_place_same, fld_place_disjoint, fld_placeBit_disjoint]
  | tUndefB => exact decode_thumb_of_decodeThumb (decodeThumb_undefB wf)
  | tStmia | tLdmia =>
    refine decode_thumb_of_decodeThumb ?_
    rw [decodeThumb_of_t15 (mask_holds (encodeTRegByte_head _ _ _) (by decide) (by decide))]
    simp [encodeTRegByte_fields]
  | tSwi =>
    refine decode_thumb_of_decodeThumb ?_
    rw [decodeThumb_of_t17 (by simp [test_t17_iff, getElem_place])]
    simp (disch := omega) [fld_or, fld_place_same, fld_place_disjoint]
  | tUndefDE =>
    refine decode_thumb_of_decodeThumb ?_
    rw [decodeThumb_of_tDE (by simp [test_tDE_iff, getElem_place])]
    simp (disch := omega) [fld_or, fld_place_same, fld_place_disjoint]
  | tBcond => exact decode_thumb_of_decodeThumb (decodeThumb_bcond wf _)
  | tB =>
    refine decode_thumb_of_decodeThumb ?_
    rw [decodeThumb_of_t18 (by simp [test_t18_iff, getElem_place])]
    simp (disch := omega) [fld_or, fld_place_same, fld_place_disjoint]
  | tUndefE8 =>
    refine decode_thumb_of_decodeThumb ?_
    rw [decodeThumb_of_tE8 (by simp [test_tE8_iff, getElem_place])]
    simp (disch := omega) [fld_or, fld_place_same, fld_place_disjoint]
  | tBlPrefix | tBlSuffix =>
    refine decode_thumb_of_decodeThumb ?_
    rw [decodeThumb_of_t19 (by simp [test_blPair_iff, getElem_place])]
    simp (disch := omega) [getElem_place, fld_or, fld_place_same, fld_place_disjoint]
  | _ => exact nomatch thumb

end Sys2Proof

/-! ### Where DecodeARM goes: one equation per test of R127 -/

namespace Sys2Proof

section ArmTests

variable {w : Word}

theorem test_56_iff : w &&& 0x60#32 = 0#32 ↔ w.getLsbD 5 = false ∧ w.getLsbD 6 = false := by
  rw [mask_eq_iff]
  simp only [Nat.forall_lt_succ_right]
  simp

/-- Bits 6:5 tell the halfword transfers from the multiply space (tests 5 and 6). -/
theorem fld_5_2_eq_zero_iff : fld w 5 2 = 0#2 ↔ w &&& 0x60#32 = 0#32 := by
  rw [test_56_iff]
  constructor
  · intro h
    have bit (i : Nat) : (fld w 5 2).getLsbD i = false := by rw [h, BitVec.getLsbD_zero]
    exact ⟨by simpa using bit 0, by simpa using bit 1⟩
  · rintro ⟨h5, h6⟩
    apply BitVec.eq_of_getLsbD_eq
    simp only [Nat.forall_lt_succ_right]
    simp_all

theorem decodeArm_of_bx (ht : w &&& 0x0FFFFFF0#32 = 0x012FFF10#32) :
    decodeArm w = .bx (.ofCode (fld w 28 4)) (fld w 0 4) := if_pos ht

theorem decodeArm_of_mul (ht : w &&& 0x0FC000F0#32 = 0x00000090#32) :
    decodeArm w = decodeMul (.ofCode (fld w 28 4)) w := by
  simp (disch := decide) [decodeArm, ht, mask_fails ht]

theorem decodeArm_of_mull (ht : w &&& 0x0F8000F0#32 = 0x00800090#32) :
    decodeArm w = decodeMull (.ofCode (fld w 28 4)) w := by
  simp (disch := decide) [decodeArm, ht, mask_fails ht]

theorem decodeArm_of_swp (ht : w &&& 0x0FB00FF0#32 = 0x01000090#32) : decodeArm w =
    if w.getLsbD 22 then .swpb (.ofCode (fld w 28 4)) (fld w 16 4) (fld w 12 4) (fld w 0 4)
    else .swp (.ofCode (fld w 28 4)) (fld w 16 4) (fld w 12 4) (fld w 0 4) := by
  simp (disch := decide) [decodeArm, ht, mask_fails ht]

theorem decodeArm_of_hsdt (ht : w &&& 0x0E000090#32 = 0x00000090#32) (h56 : ¬ w &&& 0x60#32 = 0#32) :
    decodeArm w = decodeHsdt (.ofCode (fld w 28 4)) w := by
  simp (disch := decide) [decodeArm, ht, mask_fails ht, mask_fails_of_weaker h56, fld_5_2_eq_zero_iff]

theorem decodeArm_of_undefMul (ht : w &&& 0x0E0000F0#32 = 0x00000090#32) (hMul : ¬ w &&& 0x0FC000F0#32 = 0x00000090#32)
    (hMull : ¬ w &&& 0x0F8000F0#32 = 0x00800090#32) (hSwp : ¬ w &&& 0x0FB00FF0#32 = 0x01000090#32) :
    decodeArm w = .undefMul (.ofCode (fld w 28 4)) (fld w 0 28) := by
  have half : w &&& 0x0E000090#32 = 0x00000090#32 := mask_holds ht (by decide) (by decide)
  have h56 : w &&& 0x60#32 = 0#32 := mask_holds ht (by decide) (by decide)
  simp (disch := decide) [decodeArm, mask_fails ht, hMul, hMull, hSwp, half, fld_5_2_eq_zero_iff, h56]

theorem decodeArm_of_dpOrPsr (ht : w &&& 0x0C000000#32 = 0x00000000#32) (hBx : ¬ w &&& 0x0FFFFFF0#32 = 0x012FFF10#32)
    (hHalf : ¬ w &&& 0x0E000090#32 = 0x00000090#32) : decodeArm w = decodeDpOrPsr (.ofCode (fld w 28 4)) w := by
  simp (disch := decide) [decodeArm, ht, hBx, hHalf, mask_fails_of_weaker hHalf]

theorem decodeArm_of_media (ht : w &&& 0x0E000010#32 = 0x06000010#32) :
    decodeArm w = .undefMedia (.ofCode (fld w 28 4)) (fld w 0 28) := by
  simp (disch := decide) [decodeArm, ht, mask_fails ht]

theorem decodeArm_of_sdt (ht : w &&& 0x0C000000#32 = 0x04000000#32) (hMedia : ¬ w &&& 0x0E000010#32 = 0x06000010#32) :
    decodeArm w = decodeSdt (.ofCode (fld w 28 4)) w := by
  simp (disch := decide) [decodeArm, ht, mask_fails ht, hMedia]

theorem decodeArm_of_bdt (ht : w &&& 0x0E000000#32 = 0x08000000#32) :
    decodeArm w = decodeBdt (.ofCode (fld w 28 4)) w := by
  simp (disch := decide) [decodeArm, ht, mask_fails ht]

theorem decodeArm_of_b (ht : w &&& 0x0E000000#32 = 0x0A000000#32) : decodeArm w =
    if w.getLsbD 24 then .bl (.ofCode (fld w 28 4)) (fld w 0 24) else .b (.ofCode (fld w 28 4)) (fld w 0 24) := by
  simp (disch := decide) [decodeArm, ht, mask_fails ht]

theorem decodeArm_of_cdt (ht : w &&& 0x0E000000#32 = 0x0C000000#32) :
    decodeArm w = decodeCdt (.ofCode (fld w 28 4)) w := by
  simp (disch := decide) [decodeArm, ht, mask_fails ht]

theorem decodeArm_of_cdp (ht : w &&& 0x0F000010#32 = 0x0E000000#32) : decodeArm w =
    .cdp (.ofCode (fld w 28 4)) (fld w 20 4) (fld w 16 4) (fld w 12 4) (fld w 8 4) (fld w 5 3) (fld w 0 4) := by
  simp (disch := decide) [decodeArm, ht, mask_fails ht]

theorem decodeArm_of_crt (ht : w &&& 0x0F000010#32 = 0x0E000010#32) :
    decodeArm w = decodeCrt (.ofCode (fld w 28 4)) w := by
  simp (disch := decide) [decodeArm, ht, mask_fails ht]

/-- What the fourteen tests leave. -/
theorem test_swi_iff : w &&& 0x0F000000#32 = 0x0F000000#32 ↔
    w.getLsbD 24 = true ∧ w.getLsbD 25 = true ∧ w.getLsbD 26 = true ∧ w.getLsbD 27 = true := by
  rw [mask_eq_iff]
  simp only [Nat.forall_lt_succ_right]
  simp [and_assoc]

theorem decodeArm_of_swi (ht : w &&& 0x0F000000#32 = 0x0F000000#32) :
    decodeArm w = .swi (.ofCode (fld w 28 4)) (fld w 0 24) := by
  simp (disch := decide) [decodeArm, mask_fails ht]

end ArmTests

/-! ### Heads and fields of the ARM encodings -/

theorem encodeMul_head (c : Cond) (a sf : Bool) (rd rn rs rm : Reg) :
    encodeMul c a sf rd rn rs rm &&& 0x0FC000F0#32 = 0x00000090#32 := by
  rw [test_mul_iff]
  simp [encodeMul, getElem_place, getElem_placeBit]

theorem encodeMul_fields (c : Cond) (a sf : Bool) (rd rn rs rm : Reg) : let w := encodeMul c a sf rd rn rs rm
    fld w 28 4 = c.code ∧ w[21] = a ∧ w[20] = sf ∧ fld w 16 4 = rd ∧ fld w 12 4 = rn ∧ fld w 8 4 = rs ∧ fld w 0 4 = rm := by
  simp (disch := omega) [encodeMul, getElem_place, getElem_placeBit, fld_or, fld_place_same, fld_place_disjoint,
    fld_placeBit_disjoint]

theorem encodeMull_head (c : Cond) (u a sf : Bool) (rdHi rdLo rs rm : Reg) :
    encodeMull c u a sf rdHi rdLo rs rm &&& 0x0F8000F0#32 = 0x00800090#32 := by
  rw [test_mull_iff]
  simp [encodeMull, getElem_place, getElem_placeBit]

theorem encodeMull_fields (c : Cond) (u a sf : Bool) (rdHi rdLo rs rm : Reg) :
    let w := encodeMull c u a sf rdHi rdLo rs rm
    fld w 28 4 = c.code ∧ w[22] = u ∧ w[21] = a ∧ w[20] = sf ∧ fld w 16 4 = rdHi ∧ fld w 12 4 = rdLo ∧ fld w 8 4 = rs ∧
      fld w 0 4 = rm := by
  simp (disch := omega) [encodeMull, getElem_place, getElem_placeBit, fld_or, fld_place_same, fld_place_disjoint,
    fld_placeBit_disjoint]

theorem encodeSwp_head (c : Cond) (b : Bool) (rn rd rm : Reg) :
    encodeSwp c b rn rd rm &&& 0x0FB00FF0#32 = 0x01000090#32 := by
  rw [test_swp_iff]
  simp [encodeSwp, getElem_place, getElem_placeBit]

theorem encodeSwp_fields (c : Cond) (b : Bool) (rn rd rm : Reg) : let w := encodeSwp c b rn rd rm
    fld w 28 4 = c.code ∧ w[22] = b ∧ fld w 16 4 = rn ∧ fld w 12 4 = rd ∧ fld w 0 4 = rm := by
  simp (disch := omega) [encodeSwp, getElem_place, getElem_placeBit, fld_or, fld_place_same, fld_place_disjoint,
    fld_placeBit_disjoint]

section Hsdt

variable (c : Cond) (l sgn hw p u w : Bool) (rn rd : Reg) (off : HsdtOffset)

theorem encodeHsdt_head : encodeHsdt c l sgn hw p u w rn rd off &&& 0x0E000090#32 = 0x00000090#32 := by
  rw [test_hsdt_iff]
  cases off <;> simp [encodeHsdt, encodeHsdtOffset, getElem_place, getElem_placeBit]

/-- The two nibbles of a halfword transfer's immediate offset, put together again. -/
theorem offset_of_nibbles (v : BitVec 8) : fld v 4 4 ++ fld v 0 4 = v := by
  revert v; decide

theorem encodeHsdt_fields : let x := encodeHsdt c l sgn hw p u w rn rd off
    fld x 28 4 = c.code ∧ x[24] = p ∧ x[23] = u ∧ x[21] = w ∧ x[20] = l ∧ fld x 16 4 = rn ∧ fld x 12 4 = rd ∧ x[6] = sgn ∧
      x[5] = hw ∧ decodeHsdtOffset x = off := by
  cases off <;>
    simp (disch := omega) [encodeHsdt, encodeHsdtOffset, decodeHsdtOffset, getElem_place, getElem_placeBit, fld_or,
      fld_place_same, fld_place_disjoint, fld_placeBit_disjoint, offset_of_nibbles]

end Hsdt

section Dp

variable (c : Cond) (op : BitVec 4) (sf : Bool) (rn rd : Reg) (o : Operand2)

theorem encodeDp_fields : let w := encodeDp c op sf rn rd o
    fld w 28 4 = c.code ∧ w[27] = false ∧ w[26] = false ∧ w[24] = op[3] ∧ w[23] = op[2] ∧ fld w 21 4 = op ∧ w[20] = sf ∧
      fld w 16 4 = rn ∧ fld w 12 4 = rd ∧ decodeOperand2 w = o := by
  cases o <;>
    simp (disch := omega) [encodeDp, encodeOperand2, decodeOperand2, getElem_place, getElem_placeBit, fld_or,
      fld_place_same, fld_place_disjoint, fld_placeBit_disjoint, shiftType_ofCode_code]

/-- An operand 2 never has the bits of a halfword transfer (test 5). -/
theorem encodeDp_not_half : ¬ encodeDp c op sf rn rd o &&& 0x0E000090#32 = 0x00000090#32 := by
  rw [test_hsdt_iff]
  cases o <;> simp [encodeDp, encodeOperand2, getElem_place, getElem_placeBit]

end Dp

theorem encodeSdt_head (c : Cond) (l b p u w : Bool) (rn rd : Reg) (off : SdtOffset) :
    encodeSdt c l b p u w rn rd off &&& 0x0C000000#32 = 0x04000000#32 := by
  rw [test_sdt_iff]
  cases off <;> simp [encodeSdt, encodeSdtOffset, getElem_place, getElem_placeBit]

theorem encodeSdt_not_media (c : Cond) (l b p u w : Bool) (rn rd : Reg) (off : SdtOffset) :
    ¬ encodeSdt c l b p u w rn rd off &&& 0x0E000010#32 = 0x06000010#32 := by
  rw [test_media_iff]
  cases off <;> simp [encodeSdt, encodeSdtOffset, getElem_place, getElem_placeBit]

theorem encodeSdt_fields (c : Cond) (l b p u w : Bool) (rn rd : Reg) (off : SdtOffset) :
    let x := encodeSdt c l b p u w rn rd off
    fld x 28 4 = c.code ∧ x[24] = p ∧ x[23] = u ∧ x[22] = b ∧ x[21] = w ∧ x[20] = l ∧ fld x 16 4 = rn ∧ fld x 12 4 = rd ∧
      decodeSdtOffset x = off := by
  cases off <;>
    simp (disch := omega) [encodeSdt, encodeSdtOffset, decodeSdtOffset, getElem_place, getElem_placeBit, fld_or,
      fld_place_same, fld_place_disjoint, fld_placeBit_disjoint, shiftType_ofCode_code]

/-- The rows STR, LDR, STRB, LDRB leave P = 0 with W = 1 to the user-mode rows (R137). -/
theorem not_user_of_sdtFormOk {p w : Bool} (h : sdtFormOk p w = true) : (!p && w) = false := by
  revert h
  cases p <;> cases w <;> decide

theorem encodeBdt_head (c : Cond) (l p u sb w : Bool) (rn : Reg) (list : BitVec 16) :
    encodeBdt c l p u sb w rn list &&& 0x0E000000#32 = 0x08000000#32 := by
  rw [test_bdt_iff]
  simp [encodeBdt, getElem_place, getElem_placeBit]

theorem encodeBdt_fields (c : Cond) (l p u sb w : Bool) (rn : Reg) (list : BitVec 16) :
    let x := encodeBdt c l p u sb w rn list
    fld x 28 4 = c.code ∧ x[24] = p ∧ x[23] = u ∧ x[22] = sb ∧ x[21] = w ∧ x[20] = l ∧ fld x 16 4 = rn ∧ fld x 0 16 = list := by
  simp (disch := omega) [encodeBdt, getElem_place, getElem_placeBit, fld_or, fld_place_same, fld_place_disjoint,
    fld_placeBit_disjoint]

theorem encodeB_head (c : Cond) (l : Bool) (off : BitVec 24) : encodeB c l off &&& 0x0E000000#32 = 0x0A000000#32 := by
  rw [test_b_iff]
  simp [encodeB, getElem_place, getElem_placeBit]

theorem encodeB_fields (c : Cond) (l : Bool) (off : BitVec 24) : let w := encodeB c l off
    fld w 28 4 = c.code ∧ w[24] = l ∧ fld w 0 24 = off := by
  simp (disch := omega) [encodeB, getElem_place, getElem_placeBit, fld_or, fld_place_same, fld_place_disjoint,
    fld_placeBit_disjoint]

theorem encodeCdt_head (c : Cond) (l p u n w : Bool) (rn crd cpn : BitVec 4) (off : BitVec 8) :
    encodeCdt c l p u n w rn crd cpn off &&& 0x0E000000#32 = 0x0C000000#32 := by
  rw [test_cdt_iff]
  simp [encodeCdt, getElem_place, getElem_placeBit]

theorem encodeCdt_fields (c : Cond) (l p u n w : Bool) (rn crd cpn : BitVec 4) (off : BitVec 8) :
    let x := encodeCdt c l p u n w rn crd cpn off
    fld x 28 4 = c.code ∧ x[24] = p ∧ x[23] = u ∧ x[22] = n ∧ x[21] = w ∧ x[20] = l ∧ fld x 16 4 = rn ∧ fld x 12 4 = crd ∧
      fld x 8 4 = cpn ∧ fld x 0 8 = off := by
  simp (disch := omega) [encodeCdt, getElem_place, getElem_placeBit, fld_or, fld_place_same, fld_place_disjoint,
    fld_placeBit_disjoint]

theorem encodeCrt_head (c : Cond) (l : Bool) (opc : BitVec 3) (crn rd cpn : BitVec 4) (cp : BitVec 3) (crm : BitVec 4) :
    encodeCrt c l opc crn rd cpn cp crm &&& 0x0F000010#32 = 0x0E000010#32 := by
  rw [test_crt_iff]
  simp [encodeCrt, getElem_place, getElem_placeBit]

theorem encodeCrt_fields (c : Cond) (l : Bool) (opc : BitVec 3) (crn rd cpn : BitVec 4) (cp : BitVec 3) (crm : BitVec 4) :
    let w := encodeCrt c l opc crn rd cpn cp crm
    fld w 28 4 = c.code ∧ fld w 21 3 = opc ∧ w[20] = l ∧ fld w 16 4 = crn ∧ fld w 12 4 = rd ∧ fld w 8 4 = cpn ∧
      fld w 5 3 = cp ∧ fld w 0 4 = crm := by
  simp (disch := omega) [encodeCrt, getElem_place, getElem_placeBit, fld_or, fld_place_same, fld_place_disjoint,
    fld_placeBit_disjoint]

/-! ### Every ARM instruction -/

theorem decode_arm_of_decodeArm {w : Word} {i : Instr} (hd : decodeArm w = i) :
    decode false (Encoded.arm w).bytes = .ok (i, []) := by
  rw [decode_arm_bytes, hd]

/-- Only the compares have opcodes 8 to 11, and with S = 1: with S = 0 these are the status-register transfers (R116, R127). -/
theorem decodeArm_encodeDp (c : Cond) (op : BitVec 4) (sf : Bool) (rn rd : Reg) (o : Operand2)
    (notPsr : sf = true ∨ op[3] = false ∨ op[2] = true) :
    decodeArm (encodeDp c op sf rn rd o) = decodeDp c (encodeDp c op sf rn rd o) := by
  have notBx : ¬ encodeDp c op sf rn rd o &&& 0x0FFFFFF0#32 = 0x012FFF10#32 := by
    rw [test_bx_iff]
    rcases notPsr with h | h | h <;> simp [encodeDp_fields, h]
  rw [decodeArm_of_dpOrPsr (by simp [test_dp_iff, encodeDp_fields]) notBx (encodeDp_not_half _ _ _ _ _ _)]
  rcases notPsr with h | h | h <;> simp [decodeDpOrPsr, encodeDp_fields, h, cond_ofCode_code]

theorem decodeArm_encodeMrs (c : Cond) (spsr : Bool) (rd : Reg) :
    decodeArm (place 32 28 c.code ||| placeBit 32 24 true ||| placeBit 32 22 spsr ||| place 32 16 0xF#4 ||| place 32 12 rd) =
      .mrs c spsr rd := by
  rw [decodeArm_of_dpOrPsr (by simp [test_dp_iff, getElem_place, getElem_placeBit])
    (by simp [test_bx_iff, getElem_place, getElem_placeBit]) (by simp [test_hsdt_iff, getElem_place, getElem_placeBit])]
  simp (disch := omega) [decodeDpOrPsr, getElem_place, getElem_placeBit, fld_or, fld_place_same, fld_place_disjoint,
    fld_placeBit_disjoint, cond_ofCode_code]

theorem decodeArm_encodeMsr (c : Cond) (spsr : Bool) (mask : BitVec 4) (src : MsrOperand) :
    decodeArm (place 32 28 c.code ||| placeBit 32 24 true ||| placeBit 32 22 spsr ||| placeBit 32 21 true |||
      place 32 16 mask ||| place 32 12 0xF#4 ||| encodeMsrOperand src) = .msr c spsr mask src := by
  cases src <;>
  · rw [decodeArm_of_dpOrPsr (by simp [encodeMsrOperand, test_dp_iff, getElem_place, getElem_placeBit])
      (by simp [encodeMsrOperand, test_bx_iff, getElem_place, getElem_placeBit])
      (by simp [encodeMsrOperand, test_hsdt_iff, getElem_place, getElem_placeBit])]
    simp (disch := omega) [decodeDpOrPsr, encodeMsrOperand, decodeMsrOperand, getElem_place, getElem_placeBit, fld_or,
      fld_place_same, fld_place_disjoint, fld_placeBit_disjoint, cond_ofCode_code]

/-- A test of the bits under the condition, for the rows that keep them whole (R127). -/
theorem raw_test_iff {c : BitVec 4} {raw : BitVec 28} {m p : Word} (hm : fld m 28 4 = 0) (hp : fld p 28 4 = 0) :
    (place 32 28 c ||| place 32 0 raw) &&& m = p ↔ raw &&& fld m 0 28 = fld p 0 28 := by
  rw [place_or_place_test_iff (show 4 + 28 = 32 from rfl), hm, hp]
  simp

theorem raw_fields (c : BitVec 4) (raw : BitVec 28) : let w := place 32 28 c ||| place 32 0 raw
    fld w 28 4 = c ∧ fld w 0 28 = raw := by
  simp (disch := omega) [fld_or, fld_place_same, fld_place_disjoint]

theorem decodeHsdt_undefHalf {w : Word} (c : Cond) (h : w &&& 0x0E1000D0#32 = 0x000000D0#32) :
    decodeHsdt c w = .undefHalf c (fld w 0 28) := by
  have h20 : w.getLsbD 20 = false := by simpa using congrArg (BitVec.getLsbD · 20) h
  have h6 : w.getLsbD 6 = true := by simpa using congrArg (BitVec.getLsbD · 6) h
  simp only [decodeHsdt, h20, h6]

theorem decodeArm_undefHalf {raw : BitVec 28} (h : undefHalfOk raw = true) (c : Cond) :
    decodeArm (place 32 28 c.code ||| place 32 0 raw) = .undefHalf c raw := by
  simp only [undefHalfOk, beq_iff_eq] at h
  have head : (place 32 28 c.code ||| place 32 0 raw) &&& 0x0E1000D0#32 = 0x000000D0#32 :=
    (raw_test_iff (by decide) (by decide)).2 h
  rw [decodeArm_of_hsdt (mask_holds head (by decide) (by decide)) (mask_fails head (by decide)), decodeHsdt_undefHalf _ head]
  simp only [raw_fields, cond_ofCode_code]

theorem decodeArm_undefMul {raw : BitVec 28} (h : undefMulOk raw = true) (c : Cond) :
    decodeArm (place 32 28 c.code ||| place 32 0 raw) = .undefMul c raw := by
  simp only [undefMulOk, Bool.and_eq_true, Bool.not_eq_true', beq_iff_eq, beq_eq_false_iff_ne] at h
  obtain ⟨⟨⟨head, notMul⟩, notMull⟩, notSwp⟩ := h
  rw [decodeArm_of_undefMul ((raw_test_iff (by decide) (by decide)).2 head)
    (mt (raw_test_iff (by decide) (by decide)).1 notMul) (mt (raw_test_iff (by decide) (by decide)).1 notMull)
    (mt (raw_test_iff (by decide) (by decide)).1 notSwp)]
  simp only [raw_fields, cond_ofCode_code]

theorem decodeArm_undefMedia {raw : BitVec 28} (h : undefMediaOk raw = true) (c : Cond) :
    decodeArm (place 32 28 c.code ||| place 32 0 raw) = .undefMedia c raw := by
  simp only [undefMediaOk, beq_iff_eq] at h
  rw [decodeArm_of_media ((raw_test_iff (by decide) (by decide)).2 h)]
  simp only [raw_fields, cond_ofCode_code]

/-- Settles O2: the head of each format selects its test of R127, and the fields give the operands back. -/
theorem armEncodeDecode : Obligations.ArmEncodeDecode := by
  intro i arm wf
  cases i with
  | bx =>
    refine decode_arm_of_decodeArm ?_
    rw [decodeArm_of_bx (by simp [test_bx_iff, getElem_place])]
    simp (disch := omega) [fld_or, fld_place_same, fld_place_disjoint, cond_ofCode_code]
  | mul | mla =>
    refine decode_arm_of_decodeArm ?_
    rw [decodeArm_of_mul (encodeMul_head ..)]
    simp [decodeMul, encodeMul_fields, cond_ofCode_code]
  | umull | umlal | smull | smlal =>
    refine decode_arm_of_decodeArm ?_
    rw [decodeArm_of_mull (encodeMull_head ..)]
    simp [decodeMull, encodeMull_fields, cond_ofCode_code]
  | swp | swpb =>
    refine decode_arm_of_decodeArm ?_
    rw [decodeArm_of_swp (encodeSwp_head ..)]
    simp [encodeSwp_fields, cond_ofCode_code]
  | strh | ldrh | ldrsb | ldrsh =>
    refine decode_arm_of_decodeArm ?_
    rw [decodeArm_of_hsdt (encodeHsdt_head ..) (by simp [test_56_iff, encodeHsdt_fields])]
    simp [decodeHsdt, encodeHsdt_fields, cond_ofCode_code]
  | undefHalf => exact decode_arm_of_decodeArm (decodeArm_undefHalf wf _)
  | undefMul => exact decode_arm_of_decodeArm (decodeArm_undefMul wf _)
  | mrs => exact decode_arm_of_decodeArm (decodeArm_encodeMrs ..)
  | msr => exact decode_arm_of_decodeArm (decodeArm_encodeMsr ..)
  | and | eor | sub | rsb | add | adc | sbc | rsc | tst | teq | cmp | cmn | orr | mov | bic | mvn =>
    refine decode_arm_of_decodeArm ?_
    rw [decodeArm_encodeDp _ _ _ _ _ _ (by simp)]
    simp [decodeDp, encodeDp_fields]
  | undefMedia => exact decode_arm_of_decodeArm (decodeArm_undefMedia wf _)
  | str | ldr | strb | ldrb =>
    refine decode_arm_of_decodeArm ?_
    rw [decodeArm_of_sdt (encodeSdt_head ..) (encodeSdt_not_media _ _ _ _ _ _ _ _ _)]
    simp [decodeSdt, encodeSdt_fields, not_user_of_sdtFormOk wf, cond_ofCode_code]
  | strt | ldrt | strbt | ldrbt =>
    refine decode_arm_of_decodeArm ?_
    rw [decodeArm_of_sdt (encodeSdt_head ..) (encodeSdt_not_media _ _ _ _ _ _ _ _ _)]
    simp [decodeSdt, encodeSdt_fields, cond_ofCode_code]
  | stm | ldm =>
    refine decode_arm_of_decodeArm ?_
    rw [decodeArm_of_bdt (encodeBdt_head ..)]
    simp [decodeBdt, encodeBdt_fields, cond_ofCode_code]
  | b | bl =>
    refine decode_arm_of_decodeArm ?_
    rw [decodeArm_of_b (encodeB_head ..)]
    simp [encodeB_fields, cond_ofCode_code]
  | stc | ldc =>
    refine decode_arm_of_decodeArm ?_
    rw [decodeArm_of_cdt (encodeCdt_head ..)]
    simp [decodeCdt, encodeCdt_fields, cond_ofCode_code]
  | cdp =>
    refine decode_arm_of_decodeArm ?_
    rw [decodeArm_of_cdp (by simp [test_cdp_iff, getElem_place])]
    simp (disch := omega) [fld_or, fld_place_same, fld_place_disjoint, cond_ofCode_code]
  | mcr | mrc =>
    refine decode_arm_of_decodeArm ?_
    rw [decodeArm_of_crt (encodeCrt_head ..)]
    simp [decodeCrt, encodeCrt_fields, cond_ofCode_code]
  | swi =>
    refine decode_arm_of_decodeArm ?_
    rw [decodeArm_of_swi (by simp [test_swi_iff, getElem_place])]
    simp (disch := omega) [fld_or, fld_place_same, fld_place_disjoint, cond_ofCode_code]
  | _ => exact nomatch arm

/-- Settles O1: each word is evaluated by the decoder it is written for. -/
theorem writtenWordsDecode : Obligations.WrittenWordsDecode := by
  unfold Obligations.WrittenWordsDecode
  decide

end Sys2Proof

/-! ## What a step executes (R150, R155, R156, R500) -/

namespace Sys2Proof.Machine

/-- The byte decoder reads the Execute slot as the CPU does (R155). -/
theorem State.decode_pipeE (s : State) :
    decode s.cpsr.t (if s.cpsr.t then Encoded.thumb (s.pipeE.setWidth 16) else Encoded.arm s.pipeE).bytes =
      .ok (s.current, []) := by
  unfold current
  cases s.cpsr.t with
  | false => exact decode_arm_bytes _
  | true => exact decode_thumb_bytes _

/-- An awake CPU with a valid pipeline and no IRQ to take executes (R150). -/
theorem State.cpuStep_execute {s : State} (awake : s.halted = false) (quiet : s.irqTaken = false) (valid : s.pipeValid = true) :
    s.cpuStep = s.execute := by
  simp [cpuStep, awake, quiet, valid]

/-- Settles O4: the Execute slot decodes to the current instruction, and the CPU step is its execution. -/
theorem stepExecutesSlot : Obligations.StepExecutesSlot := by
  intro s i bytes s0 awake quiet valid slot decoded
  obtain rfl : s0.current = i := by
    rw [slot, State.decode_pipeE] at decoded
    exact congrArg Prod.fst (Except.ok.inj decoded)
  unfold step State.systemStep
  simp only [show s.sampleKeys.cpuStep = s0.execute from State.cpuStep_execute awake quiet valid, State.execute]
  cases exec s0.current s0 <;> rfl

/-- Every ARM instruction runs under its condition: when that fails, the step only advances (R155, R156). -/
theorem exec_fail {i : Instr} {s : State} (arm : i.isThumb = false) (failed : condPassed s.cpsr i.cond = false) :
    exec i s = .next s.begin.advance := by
  unfold exec
  cases i with
  | and | eor | orr | bic | mov | mvn | sub | rsb | add | adc | sbc | rsc | tst | teq | cmp | cmn | mul | mla | umull | umlal
  | smull | smlal | mrs | msr | b | bl | bx | swi | undefHalf | undefMul | undefMedia | cdp | ldc | stc | mrc | mcr | ldr | ldrt
  | ldrb | ldrbt | ldrh | ldrsb | ldrsh | str | strt | strb | strbt | strh | swp | swpb | ldm | stm => exact execArm_fail failed
  | _ => exact nomatch arm

/-- A bus read makes the same diagnostic whatever write to R15 was recorded before. -/
theorem State.memRead_begin_diags (s : State) (a : Word) (n : Nat) : (s.begin.memRead a n).2.diags = (s.memRead a n).2.diags :=
  (memRead_diags s.begin a n).trans (memRead_diags s a n).symm

/-- Settles O6: without an operation the step is only its end, an advance. -/
theorem failedConditionAdvances : Obligations.FailedConditionAdvances := by
  intro i s arm failed
  obtain ⟨frame, advanced, cpsr, -⟩ := (OpFrame.start s).finish fun _ => rfl
  rw [State.finish_none (State.begin_pcWrite s) (congrArg Psr.t (State.begin_cpsr s))] at frame advanced cpsr
  exact ⟨s.begin.advance, exec_fail arm failed, cpsr, frame, advanced,
    State.memRead_begin_diags s (s.r15 + s.iszWord) s.isz⟩

end Sys2Proof.Machine

/-! ## The barrel shifter (R165 to R172) -/

namespace Sys2Proof.Machine

section Shifts

variable (v : Word) {n : Nat}

theorem shiftBy_zero (ty : ShiftType) : shiftBy ty v 0 = (v, none) := by cases ty <;> rfl

theorem shiftLsl_of_lt (lo : 1 ≤ n) (hi : n ≤ 31) : shiftLsl v n = (v <<< n, some (v.getLsbD (32 - n))) := by
  rw [shiftLsl, if_neg (by omega), if_pos (by omega)]

theorem shiftLsr_of_lt (lo : 1 ≤ n) (hi : n ≤ 31) : shiftLsr v n = (v >>> n, some (v.getLsbD (n - 1))) := by
  rw [shiftLsr, if_neg (by omega), if_pos (by omega)]

theorem shiftAsr_of_lt (lo : 1 ≤ n) (hi : n ≤ 31) : shiftAsr v n = (v.sshiftRight n, some (v.getLsbD (n - 1))) := by
  rw [shiftAsr, if_neg (by omega), if_pos (by omega)]

theorem shiftLsl_of_gt (h : 32 < n) : shiftLsl v n = (0, some false) := by
  rw [shiftLsl, if_neg (by omega), if_neg (by omega), if_neg (by omega)]

theorem shiftLsr_of_gt (h : 32 < n) : shiftLsr v n = (0, some false) := by
  rw [shiftLsr, if_neg (by omega), if_neg (by omega), if_neg (by omega)]

theorem shiftAsr_of_ge (h : 32 ≤ n) : shiftAsr v n = (if v.getLsbD 31 then 0xFFFFFFFF else 0, some (v.getLsbD 31)) := by
  rw [shiftAsr, if_neg (by omega), if_neg (by omega)]

theorem shiftRor_of_pos (h : 1 ≤ n) : shiftRor v n = (v.rotateRight (n % 32), some (v.getLsbD ((n - 1) % 32))) := by
  rw [shiftRor, if_neg (by omega)]

/-- A rotation moves bit `k + n` to bit `k`. -/
theorem getLsbD_rotateRight_word (n : Nat) {k : Nat} (hk : k < 32) : (v.rotateRight n).getLsbD k = v.getLsbD ((k + n) % 32) := by
  rw [BitVec.getLsbD_rotateRight]
  by_cases h : k < 32 - n % 32
  · simp only [h, decide_true, cond_true]
    congr 1; omega
  · simp only [h, hk, decide_false, decide_true, cond_false, Bool.true_and]
    congr 1; omega

/-- RRX moves every bit down by one, and the carry to bit 31 (R169). -/
theorem getLsbD_shiftRrx (c : Bool) {k : Nat} (hk : k < 32) :
    (shiftRrx v c).1.getLsbD k = if k < 31 then v.getLsbD (k + 1) else c := by
  rw [shiftRrx, BitVec.getLsbD_append]
  by_cases h : k < 31
  · simp [h, Nat.add_comm]
  · obtain rfl : k = 31 := by omega
    simp

end Shifts

/-- A register amount is the low byte of the register (R170). -/
theorem shiftAmount_eq_mod (v : Word) : shiftAmount v = v.toNat % 256 := by simp [shiftAmount]

/-- An immediate amount of 0 is 32 for LSR and ASR, and RRX for ROR (R167 to R169, R172). -/
theorem shiftImm_eq (v : Word) (amount : BitVec 5) (c : Bool) :
    let n := amount.toNat
    shiftImm .lsl v amount c = shiftBy .lsl v n ∧ shiftImm .lsr v amount c = shiftBy .lsr v (if n = 0 then 32 else n) ∧
      shiftImm .asr v amount c = shiftBy .asr v (if n = 0 then 32 else n) ∧
      shiftImm .ror v amount c = if n = 0 then shiftRrx v c else shiftBy .ror v n := by
  have zero : amount = 0 ↔ amount.toNat = 0 := BitVec.toNat_inj.symm
  simp only [shiftImm, shiftBy, zero, and_self]

/-- Settles O8: each shift by the range of its amount; the operands are shifts of what they read. -/
theorem barrelShifter : Obligations.BarrelShifter := by
  refine ⟨fun v n c => ⟨?zero, ?small, ?at32, ?above, ?asr, ?ror, ?rrx, ?rrxTop, rfl⟩, ?operands⟩
  case zero => rintro rfl ty; exact shiftBy_zero v ty
  case small =>
    intro lo hi
    simp only [shiftBy, shiftLsl_of_lt v lo hi, shiftLsr_of_lt v lo hi, shiftAsr_of_lt v lo hi]
    refine ⟨?_, trivial, ?_, trivial, ?_, trivial⟩
    · rw [BitVec.toNat_shiftLeft, Nat.shiftLeft_eq]
    · rw [BitVec.toNat_ushiftRight, Nat.shiftRight_eq_div_pow]
    · rw [BitVec.toInt_sshiftRight, Int.shiftRight_eq_div_pow]; rfl
  case at32 => rintro rfl; exact ⟨rfl, rfl⟩
  case above => exact fun h => ⟨shiftLsl_of_gt v h, shiftLsr_of_gt v h⟩
  case asr => exact fun h => shiftAsr_of_ge v h
  case ror =>
    intro h
    simp only [shiftBy, shiftRor_of_pos v h]
    refine ⟨fun k hk => ?_, trivial⟩
    rw [getLsbD_rotateRight_word v _ hk, Nat.add_mod_mod]
  case rrx => exact fun k hk => (getLsbD_shiftRrx v c (by omega)).trans (if_pos hk)
  case rrxTop => exact getLsbD_shiftRrx v c (k := 31) (by omega)
  case operands =>
    intro s rm rs rot imm amount v i n
    obtain ⟨lsl, lsr, asr, ror⟩ := shiftImm_eq v amount s.cpsr.c
    exact ⟨rfl, fun k hk => getLsbD_rotateRight_word _ _ hk, rfl, lsl, lsr, asr, ror,
      fun ty => congrArg (shiftBy ty v) (shiftAmount_eq_mod _), rfl, rfl⟩

end Sys2Proof.Machine

/-! ## The adder (R175 to R178) -/

namespace Sys2Proof.Machine

theorem addWithCarry_value (a b : Word) (c : Bool) :
    (addWithCarry a b c).value = a + b + (BitVec.ofBool c).setWidth 32 := by
  apply BitVec.eq_of_toNat_eq
  cases c <;> simp [addWithCarry, BitVec.toNat_add]

theorem addWithCarry_carry (a b : Word) (c : Bool) :
    (addWithCarry a b c).carry = true ↔ 2 ^ 32 ≤ a.toNat + b.toNat + c.toNat := by
  simp [addWithCarry]

/-- The carry-out says that the value is not the exact unsigned sum (R178). -/
theorem addWithCarry_carry_exact (a b : Word) (c : Bool) :
    (addWithCarry a b c).carry = true ↔ a.toNat + b.toNat + c.toNat ≠ (addWithCarry a b c).value.toNat := by
  have value : (addWithCarry a b c).value.toNat = (a.toNat + b.toNat + c.toNat) % 2 ^ 32 := BitVec.toNat_ofNat _ 32
  rw [addWithCarry_carry, value]
  omega

/-- The overflow flag says that the value is not the exact signed sum: the signs of the operands agree and that of the value
differs (R175). -/
theorem addWithCarry_overflow_exact (a b : Word) (c : Bool) :
    (addWithCarry a b c).overflow = true ↔ a.toInt + b.toInt + (c.toNat : Int) ≠ (addWithCarry a b c).value.toInt := by
  have value : (addWithCarry a b c).value.toNat = (a.toNat + b.toNat + c.toNat) % 2 ^ 32 := BitVec.toNat_ofNat _ 32
  have ha := a.isLt
  have hb := b.isLt
  have hc := c.toNat_lt
  show (a.msb == b.msb && (addWithCarry a b c).value.msb != a.msb) = true ↔ _
  simp only [BitVec.msb_eq_decide, BitVec.toInt_eq_toNat_cond, Bool.and_eq_true, beq_iff_eq, bne_iff_ne, decide_eq_decide, ne_eq]
  generalize (addWithCarry a b c).value.toNat = r at *
  split <;> split <;> split <;> omega

/-- Subtraction with a borrow that the carry-in cancels (R177, R178). -/
theorem addWithCarry_not_value (a b : Word) (c : Bool) :
    (addWithCarry a (~~~b) c).value = a - b - (if c then 0#32 else 1#32) := by
  rw [addWithCarry_value, BitVec.not_eq_neg_add]
  cases c
  · show a + (-b - 1) + 0 = a - b - 1
    bv_omega
  · show a + (-b - 1) + 1 = a - b - 0
    bv_omega

/-- Its carry-out says that there is no borrow (R178). -/
theorem addWithCarry_not_carry (a b : Word) (c : Bool) :
    (addWithCarry a (~~~b) c).carry = true ↔ b.toNat + (if c then 0 else 1) ≤ a.toNat := by
  have hb := b.isLt
  rw [addWithCarry_carry, BitVec.toNat_not]
  cases c <;> simp only [Bool.toNat_false, Bool.toNat_true, if_true, if_false, Bool.false_eq_true] <;> omega

/-- Its overflow, without a borrow, says that the exact signed difference does not fit (R175). -/
theorem addWithCarry_not_true_overflow (a b : Word) :
    (addWithCarry a (~~~b) true).overflow = true ↔ a.toInt - b.toInt ≠ (a - b).toInt := by
  have difference : (addWithCarry a (~~~b) true).value = a - b := by rw [addWithCarry_not_value, if_pos rfl, BitVec.sub_zero]
  rw [addWithCarry_overflow_exact, difference]
  have complement : (~~~b).toInt = -b.toInt - 1 := by
    have hb := b.isLt
    rw [BitVec.toInt_eq_toNat_cond, BitVec.toInt_eq_toNat_cond, BitVec.toNat_not]
    split <;> split <;> omega
  rw [complement, Bool.toNat_true]
  omega

/-- Settles O9: the four facts of the adder, and the three of a sum with the complement. -/
theorem adderExact : Obligations.AdderExact := fun a b c =>
  ⟨addWithCarry_value a b c, addWithCarry_carry_exact a b c, addWithCarry_overflow_exact a b c,
    (addWithCarry_not_value a b true).trans (BitVec.sub_zero _), addWithCarry_not_carry a b true, addWithCarry_not_true_overflow a b,
    addWithCarry_not_value a b c, addWithCarry_not_carry a b c, rfl, rfl⟩

end Sys2Proof.Machine

/-! ## Data processing with a destination other than R15, and the compares (R200 to R217) -/

namespace Sys2Proof.Machine

/-- An ARM instruction whose operation is a destination write (R200). -/
theorem execArm_aluWrite {s : State} {c : Cond} (pass : condPassed s.cpsr c = true) {rd : Reg} (hr : rd ≠ 15) {op : State → State}
    {sf : Bool} {v : Word} {g : Psr → Psr} (hg : KeepsControl g)
    (hop : op (s.begin.noteCond c) = (s.begin.noteCond c).aluWrite sf rd v g) :
    ∃ t, execArm c op s = .next t ∧ t.readReg rd = v ∧ t.cpsr = (if sf then g s.cpsr else s.cpsr) ∧ Frame s t [rd] ∧
      Advanced s t := by
  refine ⟨_, execArm_pass pass, ?_⟩
  rw [hop]
  exact (OpFrame.arm s c).aluWrite (by simp) sf hr v hg

/-- An ARM instruction whose operation is a flag update (R200). -/
theorem execArm_updateFlags {s : State} {c : Cond} (pass : condPassed s.cpsr c = true) {op : State → State} {g : Psr → Psr}
    (hg : KeepsControl g) (hop : op (s.begin.noteCond c) = (s.begin.noteCond c).updateFlags g) :
    ∃ t, execArm c op s = .next t ∧ t.cpsr = g s.cpsr ∧ Frame s t [] ∧ Advanced s t := by
  refine ⟨_, execArm_pass pass, ?_⟩
  rw [hop]
  exact (OpFrame.arm s c).flagsOnly (by simp) hg

section Alu

variable {s : State} {c : Cond} (pass : condPassed s.cpsr c = true)
include pass

theorem execArm_aluLogical (f : Word → Word → Word) (sf : Bool) (rn : Reg) {rd : Reg} (hr : rd ≠ 15) (o : Operand2) :
    let v := f (s.readReg rn) (s.operand2 o).1
    ∃ t, execArm c (fun u => u.aluLogical f sf rn rd o) s = .next t ∧ t.readReg rd = v ∧
      t.cpsr = (if sf then logicalFlags v (s.operand2 o).2 s.cpsr else s.cpsr) ∧ Frame s t [rd] ∧ Advanced s t :=
  execArm_aluWrite pass hr (keepsControl_logical _ _) (by simp [State.aluLogical])

theorem execArm_aluMove (f : Word → Word) (sf : Bool) {rd : Reg} (hr : rd ≠ 15) (o : Operand2) :
    let v := f (s.operand2 o).1
    ∃ t, execArm c (fun u => u.aluMove f sf rd o) s = .next t ∧ t.readReg rd = v ∧
      t.cpsr = (if sf then logicalFlags v (s.operand2 o).2 s.cpsr else s.cpsr) ∧ Frame s t [rd] ∧ Advanced s t :=
  execArm_aluWrite pass hr (keepsControl_logical _ _) (by simp [State.aluMove])

theorem execArm_aluArith (f : Word → Word → Bool → Sum) (sf : Bool) (rn : Reg) {rd : Reg} (hr : rd ≠ 15) (o : Operand2) :
    let r := f (s.readReg rn) (s.operand2 o).1 s.cpsr.c
    ∃ t, execArm c (fun u => u.aluArith f sf rn rd o) s = .next t ∧ t.readReg rd = r.value ∧
      t.cpsr = (if sf then arithFlags r s.cpsr else s.cpsr) ∧ Frame s t [rd] ∧ Advanced s t :=
  execArm_aluWrite pass hr (keepsControl_arith _) (by simp [State.aluArith])

theorem execArm_aluTest (f : Word → Word → Word) (rn : Reg) (o : Operand2) :
    ∃ t, execArm c (fun u => u.aluTest f rn o) s = .next t ∧
      t.cpsr = logicalFlags (f (s.readReg rn) (s.operand2 o).1) (s.operand2 o).2 s.cpsr ∧ Frame s t [] ∧ Advanced s t :=
  execArm_updateFlags pass (keepsControl_logical _ _) (by simp [State.aluTest])

theorem execArm_aluCompare (f : Word → Word → Bool → Sum) (rn : Reg) (o : Operand2) :
    ∃ t, execArm c (fun u => u.aluCompare f rn o) s = .next t ∧
      t.cpsr = arithFlags (f (s.readReg rn) (s.operand2 o).1 s.cpsr.c) s.cpsr ∧ Frame s t [] ∧ Advanced s t :=
  execArm_updateFlags pass (keepsControl_arith _) (by simp [State.aluCompare])

end Alu

/-- Settles O10: the first four are logical operations, the last two moves. -/
theorem armLogicalResults : Obligations.ArmLogicalResults := by
  intro s c sf rn rd o pass hr
  simp only [List.forall_mem_cons, List.not_mem_nil, false_implies, implies_true, and_true]
  exact ⟨execArm_aluLogical pass (· &&& ·) sf rn hr o, execArm_aluLogical pass (· ^^^ ·) sf rn hr o,
    execArm_aluLogical pass (· ||| ·) sf rn hr o, execArm_aluLogical pass (fun a b => a &&& ~~~b) sf rn hr o,
    execArm_aluMove pass id sf hr o, execArm_aluMove pass (~~~·) sf hr o⟩

/-- Settles O11: each is the adder on the operands of R177. -/
theorem armArithmeticResults : Obligations.ArmArithmeticResults := by
  intro s c sf rn rd o pass hr a b
  simp only [List.forall_mem_cons, List.not_mem_nil, false_implies, implies_true, and_true]
  exact ⟨execArm_aluArith pass sumSub sf rn hr o, execArm_aluArith pass sumRsb sf rn hr o,
    execArm_aluArith pass sumAdd sf rn hr o, execArm_aluArith pass sumAdc sf rn hr o,
    execArm_aluArith pass sumSbc sf rn hr o, execArm_aluArith pass sumRsc sf rn hr o⟩

/-- Settles O12: TST and TEQ are logical flag updates, CMP and CMN arithmetic ones. -/
theorem armCompareFlags : Obligations.ArmCompareFlags := by
  intro s c rn o pass a b
  simp only [List.forall_mem_cons, List.not_mem_nil, false_implies, implies_true, and_true]
  exact ⟨⟨execArm_aluTest pass (· &&& ·) rn o, execArm_aluTest pass (· ^^^ ·) rn o⟩,
    execArm_aluCompare pass sumSub rn o, execArm_aluCompare pass sumAdd rn o⟩

end Sys2Proof.Machine

/-! ## MSR to the CPSR (R154, R231 to R234) -/

namespace Sys2Proof.Machine

/-- A status register written under a mask that treats the flags alike and the control byte alike (R231, R232). -/
theorem maskedPsr_eq {m : Word} {f k : Bool} (flags : ∀ i, 28 ≤ i → i < 32 → m.getLsbD i = f)
    (control : ∀ i < 8, m.getLsbD i = k) (old : Psr) (v : Word) :
    maskedPsr old v m =
      { n := if f then v.getLsbD 31 else old.n, z := if f then v.getLsbD 30 else old.z,
        c := if f then v.getLsbD 29 else old.c, v := if f then v.getLsbD 28 else old.v,
        i := if k then v.getLsbD 7 else old.i, f := if k then v.getLsbD 6 else old.f,
        t := if k then v.getLsbD 5 else old.t, mode := if k then v.extractLsb' 0 5 else old.mode } := by
  have bit : ∀ i < 32, ((old.toWord &&& ~~~m) ||| (v &&& m)).getLsbD i =
      if m.getLsbD i then v.getLsbD i else old.toWord.getLsbD i := by
    intro i hi
    rw [BitVec.getLsbD_or, BitVec.getLsbD_and, BitVec.getLsbD_and, BitVec.getLsbD_not]
    cases h : m.getLsbD i <;> simp only [hi] <;> simp
  have mode : ((old.toWord &&& ~~~m) ||| (v &&& m)).extractLsb' 0 5 =
      if k then v.extractLsb' 0 5 else old.toWord.extractLsb' 0 5 := by
    ext i hi
    have := bit i (by omega)
    rw [control i (by omega)] at this
    cases k <;> simpa [BitVec.getElem_extractLsb'] using this
  conv => rhs; rw [← Psr.ofWord_toWord old]
  simp only [maskedPsr, Psr.ofWord, bit, mode, flags, control, Nat.reduceLT, Nat.reduceLeDiff]

/-- A field bit selects a byte (R232). -/
theorem byteMask_getLsbD (mask : BitVec 4) {i : Nat} (hi : i < 32) : (byteMask mask).getLsbD i = mask.getLsbD (i / 8) :=
  (by decide : ∀ (mask : BitVec 4) (i : Fin 32), (byteMask mask).getLsbD i = mask.getLsbD (i / 8)) mask ⟨i, hi⟩

/-- The flags are writable in every mode (R232). -/
theorem cpsrWritable_flags (mode : BitVec 5) {i : Nat} (lo : 28 ≤ i) (hi : i < 32) : (cpsrWritable mode).getLsbD i = true :=
  (by decide : ∀ (mode : BitVec 5) (i : Fin 32), 28 ≤ i.val → (cpsrWritable mode).getLsbD i = true) mode ⟨i, hi⟩ lo

/-- The control byte is writable outside usr mode (R232, D18). -/
theorem cpsrWritable_control (mode : BitVec 5) {i : Nat} (hi : i < 8) :
    (cpsrWritable mode).getLsbD i = decide (mode ≠ 0x10) :=
  (by decide : ∀ (mode : BitVec 5) (i : Fin 8), (cpsrWritable mode).getLsbD i = decide (mode ≠ 0x10)) mode ⟨i, hi⟩

/-- The CPSR after an MSR: field bit 3 selects the flags, field bit 0 the control byte outside usr mode (R231, R232). -/
theorem State.msrCpsr_cpsr (s : State) (mask : BitVec 4) (v : Word) :
    let f := mask.getLsbD 3
    let k := mask.getLsbD 0 && decide (s.cpsr.mode ≠ 0x10)
    (s.msrCpsr mask v).cpsr =
      { n := if f then v.getLsbD 31 else s.cpsr.n, z := if f then v.getLsbD 30 else s.cpsr.z,
        c := if f then v.getLsbD 29 else s.cpsr.c, v := if f then v.getLsbD 28 else s.cpsr.v,
        i := if k then v.getLsbD 7 else s.cpsr.i, f := if k then v.getLsbD 6 else s.cpsr.f,
        t := if k then v.getLsbD 5 else s.cpsr.t, mode := if k then v.extractLsb' 0 5 else s.cpsr.mode } := by
  have written : (s.msrCpsr mask v).cpsr = maskedPsr s.cpsr v (byteMask mask &&& cpsrWritable s.cpsr.mode) := by
    simp [msrCpsr, apply_ite State.cpsr]
  rw [written]
  refine maskedPsr_eq (fun i lo hi => ?_) (fun i hi => ?_) s.cpsr v
  · rw [BitVec.getLsbD_and, byteMask_getLsbD mask hi, cpsrWritable_flags _ lo hi, show i / 8 = 3 by omega, Bool.and_true]
  · rw [BitVec.getLsbD_and, byteMask_getLsbD mask (by omega), cpsrWritable_control _ hi, Nat.div_eq_of_lt hi]

@[simp] theorem State.msrOperand_begin_noteCond (s : State) (c : Cond) (src : MsrOperand) :
    (s.begin.noteCond c).msrOperand src = s.msrOperand src := by
  cases src <;> simp [msrOperand]

namespace OpFrame

variable {s x : State} {ds : List Reg} {w : Option Word} {data : List Config.SaveEvent}

/-- The CPSR write of MSR changes the CPSR and the diagnostics only. -/
theorem msrCpsr (h : OpFrame s x ds w data) (mask : BitVec 4) (v : Word) : OpFrame s (x.msrCpsr mask v) ds w data := by
  have note : ∀ u, OpFrame s u ds w data → OpFrame s (if mask.getLsbD 0 && privileged x.cpsr.mode then u.noteIllegalMode else u)
      ds w data := by
    intro u hu
    split
    · exact hu.noteIllegalMode
    · exact hu
  refine note _ ?_
  split
  · exact h.setCpsr _
  · exact (h.setCpsr _).emitHere _

/-- The end of a step that changed T without a write to R15: no fetch (R154). -/
theorem finish_realign (h : OpFrame s x ds none data) (ht : x.cpsr.t ≠ s.cpsr.t) :
    Frame s (x.finish s.cpsr.t) ds ∧ (x.finish s.cpsr.t).cpsr = x.cpsr ∧
      (x.finish s.cpsr.t).r15 = alignPc x.cpsr.t s.r15 ∧ (x.finish s.cpsr.t).pipeValid = false ∧
      (x.finish s.cpsr.t).pcWrite = none ∧ SaveGrew s (x.finish s.cpsr.t) data := by
  rw [State.finish_realign h.pcWrite ht]
  refine ⟨⟨?_, ?_, ?_, SameMemory.of_mem h.mem h.devices.params⟩, rfl, by rw [h.r15], rfl, h.pcWrite, h.save⟩
  · exact fun b r hr hd => (State.readBank_congr_of_ne (s := x) (by rfl) b hr).trans (h.regs b r hr hd)
  · cases h.spsrs; constructor <;> assumption
  · cases h.devices; constructor <;> assumption

end OpFrame

/-- Settles O17: the new CPSR is a masked write, the operation changes nothing else, and the step ends by whether T changed. -/
theorem msrWritesCpsr : Obligations.MsrWritesCpsr := by
  intro s c mask src pass v old f k
  have run : exec (.msr c false mask src) s = .next (((s.begin.noteCond c).msrCpsr mask v).finish s.cpsr.t) :=
    (execArm_pass (op := fun u => u.msrCpsr mask (u.msrOperand src)) pass).trans (by simp only [State.msrOperand_begin_noteCond, v])
  have op : OpFrame s ((s.begin.noteCond c).msrCpsr mask v) [] none := (OpFrame.arm s c).msrCpsr mask v
  have cpsr := State.msrCpsr_cpsr (s.begin.noteCond c) mask v
  simp only [State.noteCond_cpsr, State.begin_cpsr] at cpsr
  generalize (s.begin.noteCond c).msrCpsr mask v = x at run op cpsr
  refine ⟨_, run, ?_⟩
  by_cases ht : x.cpsr.t = s.cpsr.t
  · obtain ⟨frame, advanced, keeps, -⟩ := op.finish fun _ => ht
    exact ⟨keeps.trans cpsr, frame, fun _ => advanced, fun changed => absurd (keeps ▸ ht) changed⟩
  · obtain ⟨frame, keeps, r15, invalid, noPc, save⟩ := op.finish_realign ht
    exact ⟨keeps.trans cpsr, frame, fun same => absurd (keeps ▸ same) ht, fun _ => ⟨keeps ▸ r15, invalid, noPc, save⟩⟩

end Sys2Proof.Machine

/-! ## B, BL and BX (R190 to R192) -/

namespace Sys2Proof.Machine

/-- The target of B and BL as an integer: the offset, sign-extended, counts words (R190, R191). -/
theorem State.armBranchTarget_eq (s : State) (off : BitVec 24) :
    s.armBranchTarget off = s.r15 + BitVec.ofInt 32 (4 * off.toInt) := by
  have words : off.signExtend 32 <<< 2 = BitVec.ofInt 32 (4 * off.toInt) := by
    rw [BitVec.shiftLeft_eq_mul_twoPow, BitVec.ofInt_mul, BitVec.mul_comm]; rfl
  rw [State.armBranchTarget, words]

@[simp] theorem State.armBranchTarget_begin_noteCond (s : State) (c : Cond) (off : BitVec 24) :
    (s.begin.noteCond c).armBranchTarget off = s.armBranchTarget off := by
  simp [armBranchTarget]

/-- An ARM instruction whose operation ends in a write to R15 (R153). -/
theorem execArm_branchTo {s x : State} {c : Cond} (pass : condPassed s.cpsr c = true) {op : State → State} {ds : List Reg}
    (target : Word) (hx : OpFrame s x ds none) (hop : op (s.begin.noteCond c) = x.branchTo target) :
    ∃ t, execArm c op s = .next t ∧ t.cpsr = x.cpsr ∧ Branched s t target ∧ (∀ r, r ≠ 15 → t.readReg r = x.readReg r) ∧
      Frame s t ds := by
  obtain ⟨frame, branched, cpsr, regs⟩ := (hx.branchTo target).finish (by simp)
  exact ⟨_, execArm_pass pass, by rw [hop]; exact ⟨cpsr, branched, regs, frame⟩⟩

/-- Settles O19: each operation ends in a write to R15, B at once, BL after the link and BX after the exchange of T. -/
theorem armBranches : Obligations.ArmBranches := by
  intro s c off rn pass
  rw [← State.armBranchTarget_eq]
  have start := OpFrame.arm s c
  refine ⟨?b, ?bl, ?bx⟩
  case b =>
    obtain ⟨t, run, cpsr, branched, -, frame⟩ := execArm_branchTo pass (op := fun u => u.branchTo (u.armBranchTarget off))
      (s.armBranchTarget off) start (by simp)
    exact ⟨t, run, by simpa using cpsr, branched, frame⟩
  case bl =>
    obtain ⟨t, run, cpsr, branched, regs, frame⟩ := execArm_branchTo pass
      (op := fun u => (u.writeReg 14 (u.r15 - 4)).branchTo (u.armBranchTarget off)) (s.armBranchTarget off)
      (start.writeReg_ne (by simp) (r := 14) (by decide) (s.r15 - 4)) (by simp)
    have link : t.readReg 14 = s.r15 - 4 := (regs 14 (by decide)).trans (State.readReg_writeReg_same _ _ (by decide))
    exact ⟨t, run, by simpa using cpsr, branched, link, frame⟩
  case bx =>
    obtain ⟨t, run, cpsr, branched, -, frame⟩ := execArm_branchTo pass (op := fun u => u.branchExchange (u.readReg rn))
      (s.readReg rn) (start.setCpsr { s.cpsr with t := (s.readReg rn).getLsbD 0 }) (by simp [State.branchExchange])
    exact ⟨t, run, cpsr, branched, frame⟩

end Sys2Proof.Machine

/-! ## Data processing with R15 as destination (R153, R179, R200) -/

namespace Sys2Proof.Machine

/-- Adding without a carry-in (R177). -/
theorem addWithCarry_false_value (a b : Word) : (addWithCarry a b false).value = a + b :=
  (addWithCarry_value a b false).trans (BitVec.add_zero _)

/-- Subtracting without a borrow-in (R177). -/
theorem addWithCarry_not_true_value (a b : Word) : (addWithCarry a (~~~b) true).value = a - b :=
  (addWithCarry_not_value a b true).trans (BitVec.sub_zero _)

/-- The carry-in as the word that ADC adds (R206). -/
theorem addWithCarry_value_ite (a b : Word) (c : Bool) : (addWithCarry a b c).value = a + b + (if c then 1#32 else 0#32) := by
  rw [addWithCarry_value]
  cases c <;> rfl

/-- The outcome is a step that branches to `v`, restores the SPSR when `sf` says so, and changes nothing else (R179). -/
def BranchesRestoring (s : State) (sf : Bool) (out : Host.Outcome State Fault Refusal) (v : Word) : Prop :=
  ∃ t, out = .next t ∧ t.cpsr = (if sf then (s.spsrOf s.bank).getD s.cpsr else s.cpsr) ∧ Branched s t v ∧ Frame s t []

section AluPc

variable {s : State} {c : Cond} (pass : condPassed s.cpsr c = true)
include pass

/-- An ARM instruction whose operation is a destination write to R15 (R200). -/
theorem execArm_aluWrite_pc {op : State → State} {sf : Bool} {v : Word} {g : Psr → Psr}
    (hop : op (s.begin.noteCond c) = (s.begin.noteCond c).aluWrite sf 15 v g) : BranchesRestoring s sf (execArm c op s) v := by
  refine ⟨_, execArm_pass pass, ?_⟩
  rw [hop]
  exact (OpFrame.arm s c).aluWritePc (by simp) sf v g

theorem execArm_aluLogical_pc (f : Word → Word → Word) (sf : Bool) (rn : Reg) (o : Operand2) :
    BranchesRestoring s sf (execArm c (fun u => u.aluLogical f sf rn 15 o) s) (f (s.readReg rn) (s.operand2 o).1) :=
  execArm_aluWrite_pc pass (g := logicalFlags (f (s.readReg rn) (s.operand2 o).1) (s.operand2 o).2) (by simp [State.aluLogical])

theorem execArm_aluMove_pc (f : Word → Word) (sf : Bool) (o : Operand2) :
    BranchesRestoring s sf (execArm c (fun u => u.aluMove f sf 15 o) s) (f (s.operand2 o).1) :=
  execArm_aluWrite_pc pass (g := logicalFlags (f (s.operand2 o).1) (s.operand2 o).2) (by simp [State.aluMove])

theorem execArm_aluArith_pc (f : Word → Word → Bool → Sum) (sf : Bool) (rn : Reg) (o : Operand2) {v : Word}
    (value : (f (s.readReg rn) (s.operand2 o).1 s.cpsr.c).value = v) :
    BranchesRestoring s sf (execArm c (fun u => u.aluArith f sf rn 15 o) s) v :=
  execArm_aluWrite_pc pass (g := arithFlags (f (s.readReg rn) (s.operand2 o).1 s.cpsr.c)) (by simp [State.aluArith, value])

end AluPc

/-- Settles O13: each of the twelve is a destination write to R15, the arithmetic ones with the adder's value. -/
theorem armResultToPc : Obligations.ArmResultToPc := by
  intro s c sf rn o pass a b
  simp only [List.forall_mem_cons, List.not_mem_nil, false_implies, implies_true, and_true]
  refine ⟨?and, ?eor, ?orr, ?bic, ?mov, ?mvn, ?sub, ?rsb, ?add, ?adc, ?sbc, ?rsc⟩
  case and => exact execArm_aluLogical_pc pass (· &&& ·) sf rn o
  case eor => exact execArm_aluLogical_pc pass (· ^^^ ·) sf rn o
  case orr => exact execArm_aluLogical_pc pass (· ||| ·) sf rn o
  case bic => exact execArm_aluLogical_pc pass (fun x y => x &&& ~~~y) sf rn o
  case mov => exact execArm_aluMove_pc pass id sf o
  case mvn => exact execArm_aluMove_pc pass (~~~·) sf o
  case sub => exact execArm_aluArith_pc pass sumSub sf rn o (addWithCarry_not_true_value a b)
  case rsb => exact execArm_aluArith_pc pass sumRsb sf rn o (addWithCarry_not_true_value b a)
  case add => exact execArm_aluArith_pc pass sumAdd sf rn o (addWithCarry_false_value a b)
  case adc => exact execArm_aluArith_pc pass sumAdc sf rn o (addWithCarry_value_ite a b s.cpsr.c)
  case sbc => exact execArm_aluArith_pc pass sumSbc sf rn o (addWithCarry_not_value a b s.cpsr.c)
  case rsc => exact execArm_aluArith_pc pass sumRsc sf rn o (addWithCarry_not_value b a s.cpsr.c)

end Sys2Proof.Machine

/-! ## MRS, and MSR to the SPSR (R28, R230 to R232, R235) -/

namespace Sys2Proof.Machine

/-- Bits 27:8 of a status word read 0 (R25). -/
theorem Psr.toWord_reserved (p : Psr) : p.toWord.extractLsb' 8 20 = 0 := by
  unfold Psr.toWord
  iterate 4 rw [BitVec.extractLsb'_append_eq_of_le (by decide)]
  rw [BitVec.extractLsb'_append_eq_of_add_le (by decide)]
  rfl

/-- The diagnostic of an SPSR access in a mode without one (R235). -/
def State.noteSpsrAccess (s : State) : State :=
  if (s.spsrOf s.bank).isSome then s else s.emitHere (.unpredictable .spsrAccess)

@[simp] theorem State.noteSpsrAccess_cpsr (s : State) : s.noteSpsrAccess.cpsr = s.cpsr := by
  unfold noteSpsrAccess; split <;> rfl

/-- MRS of the SPSR writes what the access finds, the CPSR where there is no SPSR (R230, R235). -/
theorem State.mrsSpsr_eq (s : State) (rd : Reg) :
    s.mrsSpsr rd = s.noteSpsrAccess.writeReg rd ((s.spsrOf s.bank).getD s.cpsr).toWord := by
  cases h : s.spsrOf s.bank <;> simp [mrsSpsr, noteSpsrAccess, h]

/-- MSR to the SPSR is a masked write of the SPSR of the current bank; the usr bank keeps no write (R231, R235). -/
theorem State.msrSpsr_eq (s : State) (mask : BitVec 4) (v : Word) :
    s.msrSpsr mask v = s.noteSpsrAccess.setSpsrOf s.bank
      (maskedPsr ((s.spsrOf s.bank).getD s.cpsr) v (byteMask mask &&& spsrWritable)) := by
  unfold msrSpsr noteSpsrAccess
  cases s.bank <;> rfl

/-- An update of one SPSR through its old value: a bank without an SPSR stays without (R28). -/
theorem State.spsrOf_setSpsrOf_map (s : State) (b b' : Bank) (f : Psr → Psr) (d : Psr) :
    (s.setSpsrOf b (f ((s.spsrOf b).getD d))).spsrOf b' = if b' = b then (s.spsrOf b').map f else s.spsrOf b' := by
  cases b <;> cases b' <;> rfl

/-- The flags and the control byte of an SPSR are writable, whatever the mode (R232). -/
theorem spsrWritable_getLsbD {i : Nat} (hi : i < 32) : spsrWritable.getLsbD i = decide (28 ≤ i ∨ i < 8) :=
  (by decide : ∀ i : Fin 32, spsrWritable.getLsbD i = decide (28 ≤ i.val ∨ i.val < 8)) ⟨i, hi⟩

/-- The SPSR after an MSR: field bit 3 selects the flags, field bit 0 the control byte (R231, R232). -/
theorem maskedPsr_spsrWritable (old : Psr) (v : Word) (mask : BitVec 4) :
    let f := mask.getLsbD 3
    let k := mask.getLsbD 0
    maskedPsr old v (byteMask mask &&& spsrWritable) =
      { n := if f then v.getLsbD 31 else old.n, z := if f then v.getLsbD 30 else old.z,
        c := if f then v.getLsbD 29 else old.c, v := if f then v.getLsbD 28 else old.v,
        i := if k then v.getLsbD 7 else old.i, f := if k then v.getLsbD 6 else old.f,
        t := if k then v.getLsbD 5 else old.t, mode := if k then v.extractLsb' 0 5 else old.mode } := by
  refine maskedPsr_eq (fun i lo hi => ?_) (fun i hi => ?_) old v
  · rw [BitVec.getLsbD_and, byteMask_getLsbD mask hi, spsrWritable_getLsbD hi, show i / 8 = 3 by omega]; simp [lo]
  · rw [BitVec.getLsbD_and, byteMask_getLsbD mask (by omega), spsrWritable_getLsbD (by omega), Nat.div_eq_of_lt hi]; simp [hi]

/-- The same SPSR write on both sides (R28). -/
theorem SameSpsrs.setSpsrOf {s t : State} (h : SameSpsrs s t) (b : Bank) (p : Psr) :
    SameSpsrs (s.setSpsrOf b p) (t.setSpsrOf b p) := by
  obtain ⟨fiq, irq, svc, abt, und⟩ := h
  cases b with
  | usr => exact ⟨fiq, irq, svc, abt, und⟩
  | fiq => exact ⟨rfl, irq, svc, abt, und⟩
  | irq => exact ⟨fiq, rfl, svc, abt, und⟩
  | svc => exact ⟨fiq, irq, rfl, abt, und⟩
  | abt => exact ⟨fiq, irq, svc, rfl, und⟩
  | und => exact ⟨fiq, irq, svc, abt, rfl⟩

namespace OpFrame

variable {s x : State} {ds : List Reg} {w : Option Word} {data : List Config.SaveEvent}

theorem noteSpsrAccess (h : OpFrame s x ds w data) : OpFrame s x.noteSpsrAccess ds w data := by
  unfold State.noteSpsrAccess
  split
  · exact h
  · exact h.emitHere _

/-- The same SPSR write before and after an operation: the operation in between keeps its frame. -/
theorem setSpsrOf (h : OpFrame s x ds w data) (b : Bank) (p : Psr) :
    OpFrame (s.setSpsrOf b p) (x.setSpsrOf b p) ds w data := by
  have spsrs := h.spsrs.setSpsrOf b p
  obtain ⟨regs, -, devices, mem, r15, slotE, slotD, slotF, valid, pcWrite, save⟩ := h
  cases b <;> exact ⟨regs, spsrs, by cases devices; constructor <;> assumption, mem, r15,
    slotE, slotD, slotF, valid, pcWrite, save⟩

end OpFrame

/-- An SPSR is no part of what `Advanced` says. -/
theorem Advanced.of_setSpsrOf {s t : State} {b : Bank} {p : Psr} {data : List Config.SaveEvent}
    (h : Advanced (s.setSpsrOf b p) t data) : Advanced s t data := by
  obtain ⟨r15, slotE, slotD, slotF, valid, noPc, save⟩ := h
  cases b <;> exact ⟨r15, slotE, slotD, slotF, valid, noPc, save⟩

/-- An SPSR is none of the general registers, devices or memory bytes. -/
theorem Frame.of_setSpsrOf {s t : State} {b : Bank} {p : Psr} {ds : List Reg} (h : Frame (s.setSpsrOf b p) t ds) :
    SameRegs s t ds ∧ SameDevices s t ∧ SameMemory s t := by
  obtain ⟨regs, -, devices, memory⟩ := h
  have same : SameMemory s (s.setSpsrOf b p) := SameMemory.of_mem (by simp) (by simp)
  refine ⟨?_, ?_, fun a ha => (memory a ha).trans (same a ha)⟩
  · cases b <;> exact regs
  · cases b <;> cases devices <;> constructor <;> assumption

/-- An ARM instruction whose operation ends in a register write, R15 included (R153). -/
theorem execArm_writeReg {s x : State} {c : Cond} (pass : condPassed s.cpsr c = true) {op : State → State} {ds : List Reg}
    (hx : OpFrame s x ds none) (hc : x.cpsr = s.cpsr) {rd : Reg} {v : Word}
    (hop : op (s.begin.noteCond c) = x.writeReg rd v) :
    ∃ t, execArm c op s = .next t ∧ (rd ≠ 15 → t.readReg rd = v) ∧ t.cpsr = s.cpsr ∧ Frame s t (rd :: ds) ∧
      PcAfter s t (if rd = 15 then some v else none) := by
  obtain ⟨frame, pc, cpsr, regs⟩ := (hx.writeReg (by simp [State.bank, hc]) rd v).finish fun _ => by simp [hc]
  refine ⟨_, execArm_pass pass, ?_⟩
  rw [hop]
  exact ⟨fun hr => (regs rd hr).trans (State.readReg_writeReg_same x v hr), by simp [cpsr, hc], frame, pc⟩

/-- Settles O16: both forms end in a register write of a status word, the SPSR form after the diagnostic of R235. -/
theorem mrsReadsStatus : Obligations.MrsReadsStatus := by
  intro s c spsr rd pass p
  have start := OpFrame.arm s c
  have run : ∃ t, exec (.mrs c spsr rd) s = .next t ∧ (rd ≠ 15 → t.readReg rd = p.toWord) ∧ t.cpsr = s.cpsr ∧
      Frame s t [rd] ∧ PcAfter s t (if rd = 15 then some p.toWord else none) := by
    cases spsr with
    | false => exact execArm_writeReg pass (op := fun u => u.writeReg rd u.cpsr.toWord) start (by simp) (by simp [p])
    | true => exact execArm_writeReg pass (op := fun u => u.mrsSpsr rd) start.noteSpsrAccess (by simp) (by simp [p, State.mrsSpsr_eq])
  obtain ⟨t, next, effect⟩ := run
  exact ⟨t, p.toWord, next, rfl, p.toWord_reserved, p.ofWord_toWord, effect⟩

/-- Settles O18: the operation is a masked write of one SPSR; seen from the state with that SPSR already written, the step only
moves on. -/
theorem msrWritesSpsr : Obligations.MsrWritesSpsr := by
  intro s c mask src pass v f k
  let x := (s.begin.noteCond c).noteSpsrAccess
  let p := maskedPsr ((s.spsrOf s.bank).getD s.cpsr) v (byteMask mask &&& spsrWritable)
  have run : exec (.msr c true mask src) s = .next ((x.setSpsrOf s.bank p).finish s.cpsr.t) :=
    (execArm_pass (op := fun u => u.msrSpsr mask (u.msrOperand src)) pass).trans (by simp [State.msrSpsr_eq, x, p, v])
  have op : OpFrame (s.setSpsrOf s.bank p) (x.setSpsrOf s.bank p) [] none := (OpFrame.arm s c).noteSpsrAccess.setSpsrOf _ _
  obtain ⟨frame, advanced, cpsr, -⟩ := op.finish fun _ => by simp [x]
  rw [State.setSpsrOf_cpsr] at frame advanced cpsr
  obtain ⟨fiq, irq, svc, abt, und⟩ := frame.spsrs
  obtain ⟨regs, devices, memory⟩ := frame.of_setSpsrOf
  refine ⟨_, run, by simpa [x] using cpsr, fun b => ?_, regs, devices, memory, advanced.of_setSpsrOf⟩
  rw [State.spsrOf_congr fiq irq svc abt und b, State.spsrOf_setSpsrOf_map s s.bank b (maskedPsr · v _) s.cpsr]
  simp only [maskedPsr_spsrWritable, f, k]

end Sys2Proof.Machine

/-! ## The multiplies (R240 to R246) -/

namespace Sys2Proof.Machine

/-- The end of a step whose last operation updates the flags when `sf` says so. -/
theorem OpFrame.finishFlags {s x : State} {ds : List Reg} {w : Option Word} {data : List Config.SaveEvent}
    (h : OpFrame s x ds w data) (hc : x.cpsr = s.cpsr) (sf : Bool) {g : Psr → Psr} (hg : KeepsControl g) :
    let t := (if sf then x.updateFlags g else x).finish s.cpsr.t
    (∀ r, r ≠ 15 → t.readReg r = x.readReg r) ∧ t.cpsr = (if sf then g s.cpsr else s.cpsr) ∧ Frame s t ds ∧
      PcAfter s t w data := by
  cases sf with
  | false =>
    obtain ⟨frame, pc, cpsr, regs⟩ := h.finish fun _ => by simp [hc]
    exact ⟨regs, cpsr.trans hc, frame, pc⟩
  | true =>
    obtain ⟨frame, pc, cpsr, regs⟩ := (h.updateFlags g).finish fun _ => by simp [hg.t, hc]
    exact ⟨fun r hr => (regs r hr).trans (State.readReg_updateFlags (hg.mode _) r), cpsr.trans (by simp [hc]), frame, pc⟩

/-- A 32-bit multiply result at the end of its step, R15 as destination included (R153, R240). -/
theorem OpFrame.mulWrite {s x : State} {ds : List Reg} {w : Option Word} {data : List Config.SaveEvent}
    (h : OpFrame s x ds w data) (hc : x.cpsr = s.cpsr) (sf : Bool) (rd : Reg) (v : Word) :
    let t := (x.mulWrite sf rd v).finish s.cpsr.t
    (rd ≠ 15 → t.readReg rd = v) ∧ t.cpsr = (if sf then mulFlags v s.cpsr else s.cpsr) ∧ Frame s t (rd :: ds) ∧
      PcAfter s t (if rd = 15 then some v else w) data := by
  have written := h.writeReg (by simp [State.bank, hc]) rd v
  obtain ⟨regs, effect⟩ := written.finishFlags (by simp [hc]) sf (keepsControl_mul v)
  exact ⟨fun hr => (regs rd hr).trans (State.readReg_writeReg_same x v hr), effect⟩

/-- A 64-bit multiply result at the end of its step: RdHi is written last, so it wins where both are the same register or both
write R15 (R240). -/
theorem OpFrame.mullWrite {s x : State} {ds : List Reg} {w : Option Word} {data : List Config.SaveEvent}
    (h : OpFrame s x ds w data) (hc : x.cpsr = s.cpsr) (sf : Bool) (rdHi rdLo : Reg) (p : BitVec 64) :
    let t := (x.mullWrite sf rdHi rdLo p).finish s.cpsr.t
    let hi := p.extractLsb' 32 32
    let lo := p.extractLsb' 0 32
    (rdHi ≠ 15 → t.readReg rdHi = hi) ∧ (rdLo ≠ 15 → rdLo ≠ rdHi → t.readReg rdLo = lo) ∧
      t.cpsr = (if sf then mullFlags p s.cpsr else s.cpsr) ∧ Frame s t (rdHi :: rdLo :: ds) ∧
      PcAfter s t (if rdHi = 15 then some hi else if rdLo = 15 then some lo else w) data := by
  intro t hi lo
  have bank : x.bank = s.bank := by simp [State.bank, hc]
  have written := (h.writeReg bank rdLo lo).writeReg (by simp [bank]) rdHi hi
  obtain ⟨regs, effect⟩ := written.finishFlags (by simp [hc]) sf (keepsControl_mull p)
  refine ⟨fun hr => ?_, fun hr hne => ?_, effect⟩
  · exact (regs rdHi hr).trans (State.readReg_writeReg_same _ hi hr)
  · exact (regs rdLo hr).trans ((State.readReg_writeReg_other _ hi hne).trans (State.readReg_writeReg_same x lo hr))

section Multiply

variable {s : State} {c : Cond} (pass : condPassed s.cpsr c = true) {sf : Bool}
include pass

/-- An ARM instruction whose operation is a 32-bit multiply result, computed before the write. -/
theorem execArm_mulWrite {rd : Reg} (f : State → Word) {v : Word} (value : f (s.begin.noteCond c) = v) :
    ∃ t, execArm c (fun u => u.mulWrite sf rd (f u)) s = .next t ∧ (rd ≠ 15 → t.readReg rd = v) ∧
      t.cpsr = (if sf then mulFlags v s.cpsr else s.cpsr) ∧ Frame s t [rd] ∧
      PcAfter s t (if rd = 15 then some v else none) := by
  subst value
  exact ⟨_, execArm_pass pass, (OpFrame.arm s c).mulWrite (by simp) sf rd _⟩

/-- An ARM instruction whose operation is a 64-bit multiply result, computed before the writes. -/
theorem execArm_mullWrite {rdHi rdLo : Reg} (f : State → BitVec 64) {p : BitVec 64} (value : f (s.begin.noteCond c) = p) :
    ∃ t, execArm c (fun u => u.mullWrite sf rdHi rdLo (f u)) s = .next t ∧
      (rdHi ≠ 15 → t.readReg rdHi = p.extractLsb' 32 32) ∧
      (rdLo ≠ 15 → rdLo ≠ rdHi → t.readReg rdLo = p.extractLsb' 0 32) ∧
      t.cpsr = (if sf then mullFlags p s.cpsr else s.cpsr) ∧ Frame s t [rdHi, rdLo] ∧
      PcAfter s t (if rdHi = 15 then some (p.extractLsb' 32 32) else if rdLo = 15 then some (p.extractLsb' 0 32) else none) := by
  subst value
  exact ⟨_, execArm_pass pass, (OpFrame.arm s c).mullWrite (by simp) sf rdHi rdLo _⟩

end Multiply

/-- The accumulator as a number (R244, R246). -/
theorem State.accumulator_eq (s : State) (rdHi rdLo : Reg) :
    s.accumulator rdHi rdLo = BitVec.ofNat 64 ((s.readReg rdHi).toNat * 2 ^ 32 + (s.readReg rdLo).toNat) := by
  apply BitVec.eq_of_toNat_eq
  have hi := (s.readReg rdHi).isLt
  have lo := (s.readReg rdLo).isLt
  rw [accumulator, BitVec.toNat_append, ← Nat.shiftLeft_add_eq_or_of_lt lo, Nat.shiftLeft_eq, BitVec.toNat_ofNat,
    Nat.mod_eq_of_lt (by omega)]

/-- The unsigned product and a number, added modulo 2^64 (R244). -/
theorem umul_add_ofNat (a b : Word) (n : Nat) : umul a b + BitVec.ofNat 64 n = BitVec.ofNat 64 (a.toNat * b.toNat + n) :=
  (BitVec.ofNat_add ..).symm

/-- The signed product and a number, added modulo 2^64 (R246). -/
theorem smul_add_ofNat (a b : Word) (n : Nat) : smul a b + BitVec.ofNat 64 n = BitVec.ofInt 64 (a.toInt * b.toInt + n) := by
  rw [BitVec.ofInt_add, BitVec.ofInt_natCast, smul]

/-- Settles O14: each of the two ends in a 32-bit multiply result of the operands read before it. -/
theorem armMultiplies : Obligations.ArmMultiplies := by
  intro s c sf rd rn rs rm pass
  simp only [List.forall_mem_cons, List.not_mem_nil, false_implies, implies_true, and_true]
  refine ⟨?mul, ?mla⟩
  case mul => exact execArm_mulWrite pass (fun x => x.readReg rm * x.readReg rs) (by simp)
  case mla => exact execArm_mulWrite pass (fun x => x.readReg rm * x.readReg rs + x.readReg rn) (by simp)

/-- Settles O15: each of the four ends in a 64-bit multiply result, for the L forms the product and the
accumulator as one number. -/
theorem armLongMultiplies : Obligations.ArmLongMultiplies := by
  intro s c sf rdHi rdLo rs rm pass u i acc
  simp only [List.forall_mem_cons, List.not_mem_nil, false_implies, implies_true, and_true]
  refine ⟨?umull, ?umlal, ?smull, ?smlal⟩
  case umull =>
    exact execArm_mullWrite pass (fun x => umul (x.readReg rm) (x.readReg rs)) (by simp [umul, u])
  case umlal =>
    exact execArm_mullWrite pass (fun x => umul (x.readReg rm) (x.readReg rs) + x.accumulator rdHi rdLo)
      (by simp [State.accumulator_eq, umul_add_ofNat, u, acc])
  case smull =>
    exact execArm_mullWrite pass (fun x => smul (x.readReg rm) (x.readReg rs)) (by simp [smul, i])
  case smlal =>
    exact execArm_mullWrite pass (fun x => smul (x.readReg rm) (x.readReg rs) + x.accumulator rdHi rdLo)
      (by simp [State.accumulator_eq, smul_add_ofNat, i, acc])

end Sys2Proof.Machine

/-! ## The end of a step after bus writes or loads (R84, R152, R153) -/

namespace Sys2Proof.Machine

theorem SameMemory.trans {s t u : State} (h : SameMemory s t) (g : SameMemory t u) : SameMemory s u :=
  fun a ha => (g a ha).trans (h a ha)

/-- A store stays visible while memory stays. -/
theorem SameMemoryBut.trans_same {s t u : State} {ea : Word} {n : Nat} (h : SameMemoryBut s t ea n) (g : SameMemory t u) :
    SameMemoryBut s u ea n := fun a ha hr => (g a ha).trans (h a ha hr)

/-- Bytes of RAM stay while memory stays. -/
theorem HoldsBytes.of_same {t u : State} {ea : Word} {n : Nat} {v : Word} (h : HoldsBytes t ea n v) (g : SameMemory t u)
    (ram : ∀ k < n, isRam (ea + BitVec.ofNat 32 k) = true) : HoldsBytes u ea n v :=
  fun k hk => (g _ (State.isMemory_of_isRam (ram k hk))).trans (h k hk)

theorem State.bank_congr {s t : State} (h : t.cpsr = s.cpsr) : t.bank = s.bank := by simp [State.bank, h]

/-- A state inside a step begun in `s`: the status registers, R15 and the pipeline are still those of `s`, and the save device saw
the accesses `data`. Of the general registers, the memory and the devices it says nothing. -/
structure MidStep (s m : State) (data : List Config.SaveEvent) : Prop where
  cpsr  : m.cpsr = s.cpsr
  spsrs : SameSpsrs s m
  r15   : m.r15 = s.r15
  slotD : m.pipeD = s.pipeD
  slotF : m.pipeF = s.pipeF
  valid : m.pipeValid = s.pipeValid
  save  : SaveGrew s m data

namespace MidStep

variable {s m u : State} {data new : List Config.SaveEvent}

theorem trans (h : MidStep s m data) (g : MidStep m u new) : MidStep s u (new ++ data) :=
  ⟨g.cpsr.trans h.cpsr, h.spsrs.trans g.spsrs, g.r15.trans h.r15, g.slotD.trans h.slotD, g.slotF.trans h.slotF,
    g.valid.trans h.valid, h.save.trans g.save⟩

theorem of_opFrame {ds : List Reg} {w : Option Word} (h : OpFrame s m ds w data) (hc : m.cpsr = s.cpsr) : MidStep s m data :=
  ⟨hc, h.spsrs, h.r15, h.slotD, h.slotF, h.valid, h.save⟩

theorem memWrite (m : State) (a : Word) (n : Nat) (v : Word) : MidStep m (m.memWrite a n v) (saveWrites (alignTo a n) v n) := by
  refine ⟨?_, by constructor <;> simp, ?_, ?_, ?_, ?_, State.memWrite_saveGrew m a n v⟩ <;> simp

theorem writeWords (m : State) (a : Word) (vs : List Word) : MidStep m (m.writeWords a vs) (saveWords (alignTo a 4) vs) := by
  refine ⟨?_, by constructor <;> simp, ?_, ?_, ?_, ?_, State.writeWords_saveGrew vs m a⟩ <;> simp

theorem readWords (m : State) (a : Word) (n : Nat) : MidStep m (m.readWords a n).2 (saveReads (alignTo a 4) (4 * n)) := by
  refine ⟨?_, by constructor <;> simp, ?_, ?_, ?_, ?_, State.readWords_saveGrew n m a⟩ <;> simp

theorem writeBack (m : State) (b : Bool) (r : Reg) (v : Word) : MidStep m (if b then m.writeReg r v else m) [] := by
  cases b
  all_goals refine ⟨?_, by constructor <;> simp, ?_, ?_, ?_, ?_, .of_eq ?_⟩ <;> simp

theorem writeRegs (m : State) (b : Bank) (rs : List Reg) (vs : List Word) : MidStep m (m.writeRegs b rs vs) [] := by
  refine ⟨?_, by constructor <;> simp, ?_, ?_, ?_, ?_, .of_eq ?_⟩ <;> simp

/-- Where the program counter goes, said from the start of the step. -/
theorem pcAfter {t : State} {w : Option Word} (h : MidStep s m data) (g : PcAfter m t w) : PcAfter s t w data := by
  have history : t.withSave m [] = t.withSave s data := by
    unfold State.withSave
    rw [← SaveGrew.refl m, h.save]
  cases w with
  | none =>
    obtain ⟨r15, slotE, slotD, slotF, valid, noPc, save⟩ := g
    have size : m.iszWord = s.iszWord := by simp only [State.iszWord, h.cpsr]
    rw [List.append_nil] at save
    exact ⟨by rw [r15, h.r15, size], slotE.trans h.slotD, slotD.trans h.slotF, history ▸ slotF, valid.trans h.valid, noPc,
      h.save.trans save⟩
  | some v =>
    obtain ⟨r15, invalid, noPc, save⟩ := g
    exact ⟨r15, invalid, noPc, h.save.trans save⟩

/-- The end of a step whose last part is the operation from `m` to `x`. -/
theorem finish {x : State} {ds : List Reg} {w : Option Word} (h : MidStep s m data) (op : OpFrame m x ds w)
    (ht : w = none → x.cpsr.t = s.cpsr.t) :
    let t := x.finish s.cpsr.t
    t.cpsr = x.cpsr ∧ Frame m t ds ∧ SameSpsrs s t ∧ PcAfter s t w data ∧ ∀ r, r ≠ 15 → t.readReg r = x.readReg r := by
  obtain ⟨frame, pc, cpsr, regs⟩ := op.finish (h.cpsr.symm ▸ ht)
  rw [h.cpsr] at frame pc cpsr regs
  exact ⟨cpsr, frame, h.spsrs.trans frame.spsrs, h.pcAfter pc, regs⟩

end MidStep

/-- No operation yet: the recorded write to R15 is the state's own. -/
theorem OpFrame.refl (m : State) : OpFrame m m [] m.pcWrite :=
  ⟨.refl m [], ⟨rfl, rfl, rfl, rfl, rfl⟩, by constructor <;> rfl, rfl, rfl, rfl, rfl, rfl, rfl, rfl, .refl m⟩

/-- An optional write-back. -/
theorem OpFrame.writeBack {s x : State} {ds : List Reg} {w : Option Word} {data : List Config.SaveEvent} (h : OpFrame s x ds w data)
    (hb : x.bank = s.bank) (b : Bool) (r : Reg) (v : Word) :
    OpFrame s (if b then x.writeReg r v else x) (if b then r :: ds else ds) (if b = true ∧ r = 15 then some v else w) data := by
  cases b with
  | false => simpa using h
  | true => simpa using h.writeReg hb r v

/-- From `s` to `m` the bus stored to the `n` bytes from `ea` on, and no register was written. -/
structure Stored (s m : State) (ea : Word) (n : Nat) (data : List Config.SaveEvent) : Prop where
  mid     : MidStep s m data
  regs    : SameRegs s m []
  pcWrite : m.pcWrite = none
  other   : SameMemoryBut s m ea n
  noIo    : (∀ k < n, ∀ o, region (ea + BitVec.ofNat 32 k) ≠ .io o) → SameDevices s m

namespace Stored

variable {s u : State} {data : List Config.SaveEvent}

/-- Bus writes after an operation that wrote no register. -/
theorem of_opFrame {m : State} {ea : Word} {n : Nat} {new : List Config.SaveEvent} (h : OpFrame s u [] none data)
    (hc : u.cpsr = s.cpsr) (mid : MidStep u m new) (gpr : m.gpr = u.gpr) (pcWrite : m.pcWrite = u.pcWrite)
    (other : SameMemoryBut u m ea n) (noIo : (∀ k < n, ∀ o, region (ea + BitVec.ofNat 32 k) ≠ .io o) → SameDevices u m) :
    Stored s m ea n (new ++ data) where
  mid := (MidStep.of_opFrame h hc).trans mid
  regs b r hr hd := (State.readBank_congr_of_ne gpr b hr).trans (h.regs b r hr hd)
  pcWrite := pcWrite.trans h.pcWrite
  other a ha hr := (other a ha hr).trans (SameMemory.of_mem h.mem h.devices.params a ha)
  noIo hio := h.devices.trans (noIo hio)

theorem memWrite (h : OpFrame s u [] none data) (hc : u.cpsr = s.cpsr) (a : Word) (n : Nat) (v : Word) :
    Stored s (u.memWrite a n v) (alignTo a n) n (saveWrites (alignTo a n) v n ++ data) :=
  .of_opFrame h hc (.memWrite u a n v) (by simp) (by simp) (State.memWrite_other u a n v) (State.memWrite_noIo v)

theorem writeWords (h : OpFrame s u [] none data) (hc : u.cpsr = s.cpsr) (a : Word) (vs : List Word) :
    Stored s (u.writeWords a vs) (alignTo a 4) (4 * vs.length) (saveWords (alignTo a 4) vs ++ data) :=
  .of_opFrame h hc (.writeWords u a vs) (by simp) (by simp) (State.writeWords_other vs u a) (State.writeWords_noIo vs)

/-- The end of a step that stored and then wrote at most registers. -/
theorem finish {m x : State} {ea : Word} {n : Nat} {ds : List Reg} {w : Option Word} (h : Stored s m ea n data)
    (op : OpFrame m x ds w) (hc : x.cpsr = s.cpsr) :
    let t := x.finish s.cpsr.t
    t.cpsr = s.cpsr ∧ SameMemory m t ∧ SameMemoryBut s t ea n ∧
      ((∀ k < n, ∀ o, region (ea + BitVec.ofNat 32 k) ≠ .io o) → SameDevices s t) ∧
      SameRegs s t ds ∧ SameSpsrs s t ∧ PcAfter s t w data ∧ ∀ r, r ≠ 15 → t.readReg r = x.readReg r := by
  obtain ⟨cpsr, frame, spsrs, pc, regs⟩ := h.mid.finish op fun _ => by rw [hc]
  refine ⟨cpsr.trans hc, frame.memory, h.other.trans_same frame.memory, fun hio => (h.noIo hio).trans frame.devices, ?_, spsrs,
    pc, regs⟩
  intro b r hr hd
  rw [← State.bank_congr h.mid.cpsr] at hd
  exact (frame.regs b r hr hd).trans (h.regs b r hr (by simp))

end Stored

end Sys2Proof.Machine

/-! ## SWP and SWPB (R84, R290, R291) -/

namespace Sys2Proof.Machine

/-- An ARM instruction that swaps `n` bytes at the address in Rn, `rotate` being what a load does to the value it read. -/
theorem execArm_swap {s : State} {c : Cond} (pass : condPassed s.cpsr c = true) {n : Nat} (hn : n ≤ 4) (rotate : Word → Word → Word)
    (rn rd rm : Reg) :
    let a := s.readReg rn
    let ea := alignTo a n
    let v := rotate a (s.memRead a n).1
    ∃ t, execArm c (fun u => u.swap (fun x a => (rotate a (x.memRead a n).1, (x.memRead a n).2)) (fun x a v => x.memWrite a n v)
        rn rd rm) s = .next t ∧ t.cpsr = s.cpsr ∧ (rd ≠ 15 → t.readReg rd = v) ∧ SameMemoryBut s t ea n ∧
      (Memory.wf s.mem = true → (∀ k < n, isRam (ea + BitVec.ofNat 32 k) = true) → HoldsBytes t ea n (s.readReg rm)) ∧
      ((∀ k < n, ∀ o, region (ea + BitVec.ofNat 32 k) ≠ .io o) → SameDevices s t) ∧ SameRegs s t [rd] ∧ SameSpsrs s t ∧
      PcAfter s t (if rd = 15 then some v else none) (saveWrites ea (s.readReg rm) n ++ saveReads ea n) := by
  intro a ea v
  let u := ((s.begin.noteCond c).memRead a n).2
  let m := u.memWrite a n (s.readReg rm)
  have read : OpFrame s u [] none (saveReads ea n) := by simpa using (OpFrame.arm s c).memRead a n
  have stored : Stored s m ea n (saveWrites ea (s.readReg rm) n ++ saveReads ea n) := .memWrite read (by simp [u]) a n (s.readReg rm)
  have written := (OpFrame.refl m).writeReg rfl rd v
  rw [stored.pcWrite] at written
  obtain ⟨cpsr, memory, other, devices, regs, spsrs, pc, values⟩ := stored.finish written (by simp [m, u])
  refine ⟨_, (execArm_pass pass).trans (by simp [State.swap, m, u, v, a]), cpsr,
    fun hr => (values rd hr).trans (State.readReg_writeReg_same m v hr), other, fun wf ram => ?_, devices, regs, spsrs, pc⟩
  exact (State.memWrite_same (s.readReg rm) (by simpa [u] using wf) hn ram).of_same memory ram

/-- Settles O23: SWP is the swap of a word with the rotation of a word load, SWPB the swap of a byte as it is. -/
theorem swapsReadThenWrite : Obligations.SwapsReadThenWrite := by
  intro s c rn rd rm pass
  simp only [List.forall_mem_cons, List.not_mem_nil, false_implies, implies_true, and_true]
  refine ⟨?swp, ?swpb⟩
  case swp => exact execArm_swap pass (n := 4) (by decide) rotateForWord rn rd rm
  case swpb => exact execArm_swap pass (n := 1) (by decide) (fun _ v => v) rn rd rm

end Sys2Proof.Machine

/-! ## LDM (R280, R281, R283, R428) -/

namespace Sys2Proof.Machine

namespace State

/-- The recorded write to R15 after loading registers with R15 among them: its word (R10, R281). -/
theorem writeRegs_pcWrite_of_mem (b : Bank) (rs : List Reg) : ∀ (s : State) (vs : List Word), rs.Nodup →
    ∀ {v : Word}, ((15 : Reg), v) ∈ rs.zip vs → (s.writeRegs b rs vs).pcWrite = some v := by
  induction rs with
  | nil => exact fun _ _ _ _ h => by simp at h
  | cons r rs ih =>
    intro s vs hn v h
    cases vs with
    | nil => simp at h
    | cons x vs =>
      obtain ⟨notin, nodup⟩ := List.nodup_cons.1 hn
      rw [List.zip_cons_cons, List.mem_cons, Prod.mk.injEq] at h
      rcases h with ⟨rfl, rfl⟩ | h
      · exact writeRegs_pcWrite_of_not_mem b rs (s.branchTo v) vs notin
      · exact ih (s.writeBank b r x) vs nodup h

/-- The recorded write to R15 after a register write (R10). -/
theorem writeReg_pcWrite (s : State) (r : Reg) (v : Word) : (s.writeReg r v).pcWrite = if r = 15 then some v else s.pcWrite := by
  split
  · next hr => rw [hr]; rfl
  · next hr => exact writeReg_pcWrite_of_ne hr

/-- A register write does the same to two states with one register file and one bank. -/
theorem writeReg_gpr_congr {s t : State} (hg : t.gpr = s.gpr) (hc : t.cpsr = s.cpsr) (r : Reg) (v : Word) :
    (t.writeReg r v).gpr = (s.writeReg r v).gpr := by
  unfold writeReg writeBank
  rw [bank_congr hc]
  split
  · exact hg
  · simp only [hg]

/-- LDM before the exception return: the words read, the write-back, the loads through the bank `lb` (R281, R283). -/
def ldmLoaded (s : State) (lb : Bank) (start final : Word) (w : Bool) (rn : Reg) (rs : List Reg) : State :=
  let (vs, s1) := s.readWords start rs.length
  (if w then s1.writeReg rn final else s1).writeRegs lb rs vs

/-- LDM is the loads, through the user bank with S = 1 and R15 not in the list, and with S = 1 and R15 in the list the exception
return after them (R281, R283). -/
theorem ldmList_eq (s : State) (p u sb w : Bool) (rn : Reg) (list : BitVec 16) :
    let rs := regList list
    let base := s.readReg rn
    let m := s.ldmLoaded (if sb && !list.getLsbD 15 then .usr else s.bank) (blockStart p u base rs.length)
      (blockFinal u base rs.length) w rn rs
    s.ldmList p u sb w rn list = if sb && list.getLsbD 15 then m.restoreFromSpsr else m := by
  unfold ldmList ldmLoaded
  cases sb <;> cases list.getLsbD 15 <;> rfl

section LdmLoaded

variable (s : State) (lb : Bank) (start final : Word) (w : Bool) (rn : Reg) (rs : List Reg)

theorem midStep_ldmLoaded : MidStep s (s.ldmLoaded lb start final w rn rs) (saveReads (alignTo start 4) (4 * rs.length)) :=
  ((MidStep.readWords s start rs.length).trans (.writeBack _ w rn final)).trans (.writeRegs _ lb rs _)

theorem sameDevices_ldmLoaded : SameDevices s (s.ldmLoaded lb start final w rn rs) := by
  unfold ldmLoaded
  cases w <;> constructor <;> simp

@[simp] theorem ldmLoaded_mem : (s.ldmLoaded lb start final w rn rs).mem = s.mem := by
  cases w <;> simp [ldmLoaded]

variable {lb rs}

/-- A listed register takes its word. -/
theorem readBank_ldmLoaded_listed (nodup : rs.Nodup) {q : Reg × Word} (hq : q ∈ rs.zip (s.readWords start rs.length).1)
    (h15 : q.1 ≠ 15) : (s.ldmLoaded lb start final w rn rs).readBank lb q.1 = q.2 :=
  readBank_writeRegs_same lb rs _ _ nodup q hq h15

/-- A place that is not listed keeps what the write-back left there. -/
theorem readBank_ldmLoaded_unlisted {b : Bank} {r : Reg} (hl : ∀ q ∈ rs, q ≠ 15 → physIndex b r ≠ physIndex lb q) :
    (s.ldmLoaded lb start final w rn rs).readBank b r = (if w then s.writeReg rn final else s).readBank b r := by
  refine (readBank_writeRegs_other lb b r rs _ _ fun _ => hl).trans ?_
  cases w
  · exact readBank_congr (by simp) (by simp) b r
  · exact readBank_congr (writeReg_gpr_congr (by simp) (by simp) rn final) (by simp) b r

/-- R15 in the list: its word is the recorded write. -/
theorem ldmLoaded_pcWrite_listed (nodup : rs.Nodup) {v : Word}
    (hv : ((15 : Reg), v) ∈ rs.zip (s.readWords start rs.length).1) : (s.ldmLoaded lb start final w rn rs).pcWrite = some v :=
  writeRegs_pcWrite_of_mem lb rs _ _ nodup hv

/-- R15 not in the list: only a write-back to R15 is recorded. -/
theorem ldmLoaded_pcWrite_unlisted (hl : 15 ∉ rs) :
    (s.ldmLoaded lb start final w rn rs).pcWrite = if w = true ∧ rn = 15 then some final else s.pcWrite := by
  refine (writeRegs_pcWrite_of_not_mem lb rs _ _ hl).trans ?_
  cases w <;> simp [writeReg_pcWrite]

end LdmLoaded

end State

/-- Each register of a list stands beside a word of a list as long. -/
theorem exists_mem_zip {rs : List Reg} {vs : List Word} (h : vs.length = rs.length) {r : Reg} (hr : r ∈ rs) :
    ∃ v, (r, v) ∈ rs.zip vs := by
  rw [← List.map_fst_zip (Nat.le_of_eq h.symm), List.mem_map] at hr
  obtain ⟨⟨_, v⟩, hq, rfl⟩ := hr
  exact ⟨v, hq⟩

/-- The end of a step whose last part is the exception return when `restore` says so, with R15 written (R179, R428). -/
theorem MidStep.finishRestoring {s m : State} {data : List Config.SaveEvent} (h : MidStep s m data) {restore : Bool}
    (hr : restore = true → m.pcWrite ≠ none) :
    let t := (if restore then m.restoreFromSpsr else m).finish s.cpsr.t
    t.cpsr = (if restore then (s.spsrOf s.bank).getD s.cpsr else s.cpsr) ∧ Frame m t [] ∧ SameSpsrs s t ∧
      PcAfter s t m.pcWrite data := by
  cases restore with
  | false =>
    obtain ⟨cpsr, frame, spsrs, pc, -⟩ := h.finish (.refl m) fun _ => by rw [h.cpsr]
    exact ⟨cpsr.trans h.cpsr, frame, spsrs, pc⟩
  | true =>
    obtain ⟨op, restored⟩ := (OpFrame.refl m).restoreFromSpsr rfl
    obtain ⟨cpsr, frame, spsrs, pc, -⟩ := h.finish op fun none => absurd none (hr rfl)
    obtain ⟨fiq, irq, svc, abt, und⟩ := h.spsrs
    rw [State.spsrOf_congr fiq irq svc abt und, State.bank_congr h.cpsr, h.cpsr] at restored
    exact ⟨cpsr.trans restored, frame, spsrs, pc⟩

/-- LDM of a non-empty list whose condition passes (R281). -/
theorem exec_ldm {s : State} {c : Cond} (pass : condPassed s.cpsr c = true) (p u sb w : Bool) (rn : Reg) {list : BitVec 16}
    (nonempty : list ≠ 0) :
    exec (.ldm c p u sb w rn list) s = .next (((s.begin.noteCond c).ldmList p u sb w rn list).finish s.cpsr.t) :=
  (execArm_pass (op := fun v => if list = 0 then v.ldmEmpty p u sb w rn else v.ldmList p u sb w rn list) pass).trans
    (by rw [if_neg nonempty])

/-- Settles O24: the step ends the loads, after the exception return if there is one; the registers are those the loads left. -/
theorem ldmLoadsList : Obligations.LdmLoadsList := by
  intro s c p u sb w rn list pass nonempty rs base start vs data lb final
  let v := s.begin.noteCond c
  let m := v.ldmLoaded lb start final w rn rs
  have nodup : rs.Nodup := regList_nodup list
  have begun := OpFrame.arm s c
  have words : (v.readWords start rs.length).1 = vs := State.BusEq.readWords rs.length (State.busEq_noteCond s c) start
  have mid : MidStep s m data := by
    simpa using (MidStep.of_opFrame begun (by simp)).trans (v.midStep_ldmLoaded lb start final w rn rs)
  have devices : SameDevices s m := begun.devices.trans (v.sameDevices_ldmLoaded lb start final w rn rs)
  have run : exec (.ldm c p u sb w rn list) s =
      .next ((if sb && list.getLsbD 15 then m.restoreFromSpsr else m).finish s.cpsr.t) := by
    rw [exec_ldm pass p u sb w rn nonempty, State.ldmList_eq]
    simp [m, v, lb, start, final, base, rs]
  have toPc : ∀ {x : Word}, ((15 : Reg), x) ∈ rs.zip vs → m.pcWrite = some x :=
    fun hx => v.ldmLoaded_pcWrite_listed start final w rn nodup (words ▸ hx)
  obtain ⟨cpsr, frame, spsrs, pc⟩ := mid.finishRestoring (restore := sb && list.getLsbD 15) fun hr => by
    obtain ⟨x, hx⟩ := exists_mem_zip (State.readWords_length rs.length s start)
      ((mem_regList list 15).2 (Bool.and_eq_true_iff.1 hr).2)
    simp [toPc hx]
  have keep : ∀ (b : Bank) {r : Reg}, r ≠ 15 → State.readBank _ b r = m.readBank b r :=
    fun b r hr => frame.regs b r hr (by simp)
  have unlisted {b : Bank} {r : Reg} (hl : ∀ q ∈ rs, q ≠ 15 → physIndex b r ≠ physIndex lb q) :=
    v.readBank_ldmLoaded_unlisted start final w rn hl
  refine ⟨_, run, ?listed, ?base, ?others, cpsr, ?branch, ?advance, spsrs, ?devices, ?memory⟩
  case listed =>
    intro q hq hr
    exact (keep lb hr).trans (v.readBank_ldmLoaded_listed start final w rn nodup (words.symm ▸ hq) hr)
  case base =>
    intro hw hr hl
    rw [keep s.bank hr, unlisted fun q hq h15 => (hl q hq h15).symm, if_pos hw]
    have bank : (v.writeReg rn final).bank = s.bank := by simp [v]
    exact bank ▸ v.readReg_writeReg_same final hr
  case others =>
    intro b r hr hl hb
    rw [keep b hr, unlisted hl]
    split
    · next hw =>
      refine (State.readBank_writeBank_other v v.bank b rn r final fun hn _ => ?_).trans (by simp [v])
      simpa [v] using hb hw hn
    · simp [v]
  case branch =>
    intro q hq h15
    obtain ⟨r, x⟩ := q
    cases h15
    rwa [toPc hq] at pc
  case advance =>
    intro h15
    have hl : (15 : Reg) ∉ rs := fun h => Bool.noConfusion (h15.symm.trans ((mem_regList list 15).1 h))
    rw [v.ldmLoaded_pcWrite_unlisted start final w rn hl, begun.pcWrite] at pc
    exact pc
  case devices => exact devices.trans frame.devices
  case memory => exact SameMemory.trans (.of_mem (by simp [m, v]) devices.params) frame.memory

end Sys2Proof.Machine

/-! ## STM (R280, R282, R283, R285) -/

namespace Sys2Proof.Machine

namespace State

theorem add_ofNat_add_four (a : Word) (k : Nat) : a + BitVec.ofNat 32 (k + 4) = a + 4 + BitVec.ofNat 32 k := by
  rw [BitVec.ofNat_add, BitVec.add_comm (BitVec.ofNat 32 k), ← BitVec.add_assoc]; rfl

/-- RAM holds each word of a block just written; a block no longer than the smallest region does not come back to its own bytes
(R62, R69, R84). -/
theorem writeWords_same (vs : List Word) : ∀ {s : State} {a : Word}, Memory.wf s.mem = true → 4 * vs.length ≤ 0x400 →
    (∀ k < 4 * vs.length, isRam (alignTo a 4 + BitVec.ofNat 32 k) = true) →
    ∀ k (hk : k < vs.length), HoldsBytes (s.writeWords a vs) (alignTo a 4 + BitVec.ofNat 32 (4 * k)) 4 vs[k] := by
  induction vs with
  | nil => exact fun _ _ _ k hk => absurd hk (Nat.not_lt_zero k)
  | cons v vs ih =>
    intro s a wf len ram k hk
    rw [List.length_cons] at len ram hk
    cases k with
    | zero =>
      intro j hj
      rw [Nat.mul_zero, BitVec.add_zero]
      refine (writeWords_other vs (s.memWrite a 4 v) (a + 4) _ (isMemory_of_isRam (ram j (by omega))) fun i hi same => ?_).trans
        (memWrite_same v wf (by decide) (fun i hi => ram i (by omega)) j hj)
      rw [alignTo_add_four, ← add_ofNat_add_four] at same
      have := region_ram_mod (ram j (by omega)) same
      rw [toNat_add_mod, toNat_add_mod] at this
      omega
    | succ k =>
      rw [Nat.mul_succ, add_ofNat_add_four, ← alignTo_add_four]
      refine ih (memWrite_wf a 4 v wf) (by omega) (fun i hi => ?_) k (by omega)
      rw [alignTo_add_four, ← add_ofNat_add_four]
      exact ram (i + 4) (by omega)

/-- What STM stores for register `r` at place `k` of its list (R282, R283, R285). -/
def stmStored (s : State) (sb w : Bool) (rn : Reg) (final : Word) (k : Nat) (r : Reg) : Word :=
  if w = true ∧ r = rn ∧ k ≠ 0 ∧ (sb = false ∨ r = 15 ∨ physIndex .usr r = physIndex s.bank r) then final
  else if sb then s.readUser r else s.readReg r

theorem stmSubstitutes_iff (s : State) (sb w : Bool) (rn r : Reg) (first : Bool) :
    s.stmSubstitutes sb w rn r first = true ↔
      w = true ∧ r = rn ∧ first = false ∧ (sb = false ∨ r = 15 ∨ physIndex .usr r = physIndex s.bank r) := by
  by_cases h : r = rn
  · subst h
    simp [stmSubstitutes, and_assoc, or_assoc]
  · simp [stmSubstitutes, h]

/-- The values of STM by their places in the list: the first place is 0. -/
theorem stmValues_eq (s : State) (sb w : Bool) (rn : Reg) (final : Word) (rs : List Reg) : ∀ k : Nat,
    s.stmValues sb w rn final (k == 0) rs = (rs.zipIdx k).map fun x => s.stmStored sb w rn final x.2 x.1 := by
  induction rs with
  | nil => exact fun _ => rfl
  | cons r rs ih =>
    intro k
    rw [stmValues, List.zipIdx_cons, List.map_cons, ← ih (k + 1)]
    congr 1
    simp only [stmStored, stmSubstitutes_iff, beq_eq_false_iff_ne]

/-- The values of a whole list. -/
theorem stmValues_true (s : State) (sb w : Bool) (rn : Reg) (final : Word) (rs : List Reg) :
    s.stmValues sb w rn final true rs = rs.zipIdx.map fun x => s.stmStored sb w rn final x.2 x.1 :=
  s.stmValues_eq sb w rn final rs 0

@[simp] theorem stmStored_begin_noteCond (s : State) (c : Cond) : (s.begin.noteCond c).stmStored = s.stmStored := by
  funext sb w rn final k r
  simp [stmStored, readUser]

end State

/-- A register list has at most sixteen registers (R120). -/
theorem regList_length_le (list : BitVec 16) : (regList list).length ≤ 16 := by
  rw [regList, List.length_map]
  exact List.length_filter_le _ _

/-- STM of a non-empty list whose condition passes: the values by their places are stored, then the write-back (R282, R283). -/
theorem exec_stm {s : State} {c : Cond} (pass : condPassed s.cpsr c = true) (p u sb w : Bool) (rn : Reg) {list : BitVec 16}
    (nonempty : list ≠ 0) :
    let rs := regList list
    let final := blockFinal u (s.readReg rn) rs.length
    let m := (s.begin.noteCond c).writeWords (blockStart p u (s.readReg rn) rs.length)
      (rs.zipIdx.map fun x => s.stmStored sb w rn final x.2 x.1)
    exec (.stm c p u sb w rn list) s = .next ((if w then m.writeReg rn final else m).finish s.cpsr.t) := by
  intro rs final m
  refine (execArm_pass (op := fun v => if list = 0 then v.stmEmpty p u w rn else v.stmList p u sb w rn list) pass).trans ?_
  rw [if_neg nonempty]
  simp [State.stmList, State.stmValues_true, m, final, rs]

/-- Settles O25: the step ends the stores of the values and the write-back. -/
theorem stmStoresList : Obligations.StmStoresList := by
  intro s c p u sb w rn list pass nonempty rs n base start final stored
  let vs := rs.zipIdx.map fun x => stored x.2 x.1
  let m := (s.begin.noteCond c).writeWords (blockStart p u base n) vs
  have length : vs.length = n := by simp [vs, n]
  have short : n ≤ 16 := regList_length_le list
  have stores : Stored s m start (4 * n) (saveWords start vs) := by
    simpa [length] using Stored.writeWords (OpFrame.arm s c) (by simp) (blockStart p u base n) vs
  have op := (OpFrame.refl m).writeBack rfl w rn final
  rw [stores.pcWrite] at op
  obtain ⟨cpsr, memory, other, devices, regs, spsrs, pc, values⟩ := stores.finish op (by cases w <;> simp [stores.mid.cpsr])
  have run : exec (.stm c p u sb w rn list) s = .next ((if w then m.writeReg rn final else m).finish s.cpsr.t) :=
    exec_stm pass p u sb w rn nonempty
  refine ⟨_, run, cpsr, ?words, other, devices, ?base, regs, spsrs, pc⟩
  case words =>
    intro wf ram k hk
    have holds : HoldsBytes m _ 4 vs[k] :=
      State.writeWords_same vs (by simpa using wf) (by omega) (by rwa [length]) k (by omega)
    have value : vs[k] = stored k rs[k] := by simp [vs]
    rw [value] at holds
    refine holds.of_same memory fun j hj => ?_
    rw [BitVec.add_assoc, ← BitVec.ofNat_add]
    exact ram _ (by omega)
  case base =>
    intro hw hr
    rw [values rn hr, if_pos hw]
    exact m.readReg_writeReg_same final hr

end Sys2Proof.Machine

/-! ## SWI (R300, R387, R427) -/

namespace Sys2Proof.Machine

/-- An exception taken after an operation so far that kept the registers and the status, and the pc at its vector (R426, R427): the
effect is the one on the state the step began in. -/
theorem OpFrame.entered_takeException {s x : State} {w : Option Word} (h : OpFrame s x [] w) (hc : x.cpsr = s.cpsr) (e : Exc)
    (ret : Word) : Entered s ((x.takeException e ret).applyPc e.vector) e ret := by
  obtain ⟨status, saved, link, -, spsrs, others, -, -, -, -, mem, -, devices⟩ := x.takeException_spec e ret
  obtain ⟨fiq, irq, svc, abt, und⟩ := h.spsrs
  have psr : ∀ b, ((x.takeException e ret).applyPc e.vector).spsrOf b = (x.takeException e ret).spsrOf b :=
    State.spsrOf_congr rfl rfl rfl rfl rfl
  have dev : SameDevices s (x.takeException e ret) := h.devices.trans devices
  rw [hc] at status saved
  constructor
  case status => exact status
  case saved => exact (psr e.bank).trans saved
  case link => rw [State.readBank_applyPc _ _ _ (by decide), link]
  case r15 => rw [State.applyPc_r15, status]; cases e <;> rfl
  case invalid => rfl
  case noPc => rfl
  case others =>
    intro b r hr hb
    rw [State.readBank_applyPc _ _ b hr, others b r hr hb]
    exact h.regs b r hr (by simp)
  case spsrs =>
    intro b hb
    rw [psr b, spsrs b hb]
    exact State.spsrOf_congr fiq irq svc abt und b
  case devices => exact dev.trans (by constructor <;> rfl)
  case memory => exact .of_mem (mem.trans h.mem) dev.params
  case save =>
    have kept : x.save = s.save := Eq.trans h.save (SaveGrew.refl s).symm
    simpa [State.takeException] using kept

/-- The end of a step that raises SWI: the recorded write is the vector, and the link is the address after the SWI (R300, R427). -/
theorem OpFrame.entered_raiseSwi {s x : State} {w : Option Word} (h : OpFrame s x [] w) (hc : x.cpsr = s.cpsr) (oldT : Bool) :
    Entered s (x.raiseSwi.finish oldT) .swi (s.r15 - s.iszWord) := by
  have link : x.r15 - x.iszWord = s.r15 - s.iszWord := by simp only [State.iszWord, h.r15, hc]
  rw [State.raiseSwi, link, State.finish_some (v := Exc.swi.vector) rfl]
  exact h.entered_takeException hc .swi _

/-- Settles O27: in both states the operation is SWI raised from the state the step began in. -/
theorem swiEntersSupervisor : Obligations.SwiEntersSupervisor := fun s =>
  ⟨fun c _ pass => ⟨_, execArm_pass pass, (OpFrame.arm s c).entered_raiseSwi (by simp) s.cpsr.t⟩,
    fun _ => ⟨_, rfl, (OpFrame.start s).entered_raiseSwi rfl s.cpsr.t⟩⟩

end Sys2Proof.Machine

/-! ## What an instruction is made of (R155)

An instruction other than SWI is a run of a few operations. What each of them keeps, every such instruction keeps: for usr mode that is
everything outside the usr bank (R422), for the devices whatever a byte write to an I/O register keeps. -/

namespace Sys2Proof.Machine

/-- One operation of an instruction other than SWI. -/
inductive CpuOp : State → State → Prop
  | begin (s : State) : CpuOp s s.begin
  | emit (s : State) (k : DiagKind) (i : Word) : CpuOp s (s.emit k i)
  | writeReg (s : State) (r : Reg) (v : Word) : CpuOp s (s.writeReg r v)
  | writeUser (s : State) (r : Reg) (v : Word) : CpuOp s (s.writeUser r v)
  | branchTo (s : State) (v : Word) : CpuOp s (s.branchTo v)
  | setFlags (s : State) (n z c v : Bool) : CpuOp s (s.setCpsr { s.cpsr with n := n, z := z, c := c, v := v })
  | setT (s : State) (t : Bool) : CpuOp s (s.setCpsr { s.cpsr with t := t })
  | restoreFromSpsr (s : State) : CpuOp s s.restoreFromSpsr
  | msrCpsr (s : State) (mask : BitVec 4) (v : Word) : CpuOp s (s.msrCpsr mask v)
  | msrSpsr (s : State) (mask : BitVec 4) (v : Word) : CpuOp s (s.msrSpsr mask v)
  | memRead (s : State) (a : Word) (n : Nat) : CpuOp s (s.memRead a n).2
  | memWrite (s : State) (a : Word) (n : Nat) (v : Word) : CpuOp s (s.memWrite a n v)
  | finish (s : State) (oldT : Bool) : CpuOp s (s.finish oldT)

/-- Operations one after the other. -/
inductive CpuOps : State → State → Prop
  | refl {s : State} : CpuOps s s
  | tail {s t u : State} (h : CpuOps s t) (op : CpuOp t u) : CpuOps s u

namespace CpuOps

theorem single {s t : State} (op : CpuOp s t) : CpuOps s t := refl.tail op

theorem trans {s t u : State} (h : CpuOps s t) (g : CpuOps t u) : CpuOps s u := by
  induction g with
  | refl => exact h
  | tail _ op ih => exact ih.tail op

/-- Either of two operations. -/
theorem either {c : Prop} [Decidable c] {s t u : State} (h : CpuOps s t) (g : CpuOps s u) : CpuOps s (if c then t else u) := by
  split
  · exact h
  · exact g

theorem writeReg (s : State) (r : Reg) (v : Word) : CpuOps s (s.writeReg r v) := .single (.writeReg s r v)

theorem branchTo (s : State) (v : Word) : CpuOps s (s.branchTo v) := .single (.branchTo s v)

theorem emitHere (s : State) (k : DiagKind) : CpuOps s (s.emitHere k) := .single (.emit s k _)

theorem memRead (s : State) (a : Word) (n : Nat) : CpuOps s (s.memRead a n).2 := .single (.memRead s a n)

theorem memWrite (s : State) (a : Word) (n : Nat) (v : Word) : CpuOps s (s.memWrite a n v) := .single (.memWrite s a n v)

/-- An optional write-back. -/
theorem writeBack (s : State) (b : Bool) (r : Reg) (v : Word) : CpuOps s (if b then s.writeReg r v else s) :=
  either (writeReg s r v) .refl

/-! ### Results and flags -/

theorem logicalFlags (s : State) (v : Word) (co : Option Bool) : CpuOps s (s.updateFlags (logicalFlags v co)) :=
  .single (.setFlags s _ _ _ _)

theorem arithFlags (s : State) (r : Sum) : CpuOps s (s.updateFlags (arithFlags r)) := .single (.setFlags s _ _ _ _)

theorem mulFlags (s : State) (v : Word) : CpuOps s (s.updateFlags (mulFlags v)) := .single (.setFlags s _ _ _ _)

theorem mullFlags (s : State) (v : BitVec 64) : CpuOps s (s.updateFlags (mullFlags v)) := .single (.setFlags s _ _ _ _)

theorem aluWrite (s : State) (sf : Bool) (rd : Reg) (v : Word) {g : Psr → Psr} (flags : ∀ u : State, CpuOps u (u.updateFlags g)) :
    CpuOps s (s.aluWrite sf rd v g) :=
  either ((either (.single (.restoreFromSpsr s)) .refl).trans (writeReg _ _ _))
    (either ((writeReg s rd v).trans (flags _)) (writeReg s rd v))

theorem aluLogical (s : State) (f : Word → Word → Word) (sf : Bool) (rn rd : Reg) (o : Operand2) :
    CpuOps s (s.aluLogical f sf rn rd o) := aluWrite s _ _ _ fun u => logicalFlags u _ _

theorem aluMove (s : State) (f : Word → Word) (sf : Bool) (rd : Reg) (o : Operand2) : CpuOps s (s.aluMove f sf rd o) :=
  aluWrite s _ _ _ fun u => logicalFlags u _ _

theorem aluArith (s : State) (f : Word → Word → Bool → Sum) (sf : Bool) (rn rd : Reg) (o : Operand2) :
    CpuOps s (s.aluArith f sf rn rd o) := aluWrite s _ _ _ fun u => arithFlags u _

theorem mulWrite (s : State) (sf : Bool) (rd : Reg) (v : Word) : CpuOps s (s.mulWrite sf rd v) :=
  (writeReg s rd v).trans (either (mulFlags _ _) .refl)

theorem mullWrite (s : State) (sf : Bool) (rdHi rdLo : Reg) (v : BitVec 64) : CpuOps s (s.mullWrite sf rdHi rdLo v) :=
  ((writeReg s rdLo _).trans (writeReg _ rdHi _)).trans (either (mullFlags _ _) .refl)

theorem tLogical (s : State) (rd : LowReg) (r : Word × Option Bool) : CpuOps s (s.tLogical rd r) :=
  (writeReg s _ _).trans (logicalFlags _ _ _)

theorem tArith (s : State) (rd : LowReg) (r : Sum) : CpuOps s (s.tArith rd r) := (writeReg s _ _).trans (arithFlags _ _)

/-! ### Status registers and branches -/

theorem mrsSpsr (s : State) (rd : Reg) : CpuOps s (s.mrsSpsr rd) := by
  unfold State.mrsSpsr
  split
  · exact writeReg s rd _
  · exact (emitHere s _).trans (writeReg _ rd _)

theorem branchExchange (s : State) (v : Word) : CpuOps s (s.branchExchange v) :=
  (CpuOps.single (.setT s _)).trans (branchTo _ v)

/-! ### Loads and stores -/

/-- A load primitive: bus reads. -/
def IsLoad (load : State → Word → Word × State) : Prop := ∀ s ea, CpuOps s (load s ea).2

/-- A store primitive: bus writes. -/
def IsStore (store : State → Word → Word → State) : Prop := ∀ s ea v, CpuOps s (store s ea v)

theorem loadWord : IsLoad State.loadWord := fun s ea => memRead s ea 4
theorem loadHalf : IsLoad State.loadHalf := fun s ea => memRead s ea 2
theorem loadByte : IsLoad State.loadByte := fun s ea => memRead s ea 1
theorem loadByteSigned : IsLoad State.loadByteSigned := fun s ea => memRead s ea 1

theorem loadHalfSigned : IsLoad State.loadHalfSigned := by
  intro s ea
  unfold State.loadHalfSigned
  split
  · exact loadByteSigned s ea
  · exact memRead s ea 2

theorem storeWord : IsStore State.storeWord := fun s ea v => memWrite s ea 4 v
theorem storeHalf : IsStore State.storeHalf := fun s ea v => memWrite s ea 2 v
theorem storeByte : IsStore State.storeByte := fun s ea v => memWrite s ea 1 v

theorem loadTransfer {load : State → Word → Word × State} (h : IsLoad load) (s : State) (ad : Address) (rn rd : Reg) :
    CpuOps s (s.loadTransfer load ad rn rd) := ((h s _).trans (writeBack _ _ _ _)).trans (writeReg _ _ _)

theorem storeTransfer {store : State → Word → Word → State} (h : IsStore store) (s : State) (ad : Address) (rn rd : Reg) :
    CpuOps s (s.storeTransfer store ad rn rd) := (h s _ _).trans (writeBack _ _ _ _)

theorem swap {load : State → Word → Word × State} {store : State → Word → Word → State} (hl : IsLoad load) (hs : IsStore store)
    (s : State) (rn rd rm : Reg) : CpuOps s (s.swap load store rn rd rm) := ((hl s _).trans (hs _ _ _)).trans (writeReg _ _ _)

theorem tLoad {load : State → Word → Word × State} (h : IsLoad load) (s : State) (ea : Word) (rd : LowReg) :
    CpuOps s (s.tLoad load ea rd) := (h s ea).trans (writeReg _ _ _)

/-! ### Block transfers -/

theorem readWords (n : Nat) : ∀ (s : State) (a : Word), CpuOps s (s.readWords a n).2 := by
  induction n with
  | zero => exact fun s _ => .refl
  | succ n ih => exact fun s a => (memRead s a 4).trans (ih _ _)

theorem writeWords (vs : List Word) : ∀ (s : State) (a : Word), CpuOps s (s.writeWords a vs) := by
  induction vs with
  | nil => exact fun s _ => .refl
  | cons v vs ih => exact fun s a => (memWrite s a 4 v).trans (ih _ _)

/-- Registers are loaded through the bank of the mode or the user bank. -/
theorem writeRegs (b : Bank) (rs : List Reg) : ∀ (s : State) (vs : List Word), b = s.bank ∨ b = .usr →
    CpuOps s (s.writeRegs b rs vs) := by
  induction rs with
  | nil => exact fun s _ _ => .refl
  | cons r rs ih =>
    intro s vs hb
    cases vs with
    | nil => exact .refl
    | cons v vs =>
      have one : CpuOps s (s.writeBank b r v) := by
        rcases hb with rfl | rfl
        · exact writeReg s r v
        · exact .single (.writeUser s r v)
      exact one.trans (ih _ vs (by simpa using hb))

theorem noteEmptyList (s : State) : CpuOps s s.noteEmptyList := emitHere s _

theorem ldmList (s : State) (p u sb w : Bool) (rn : Reg) (list : BitVec 16) : CpuOps s (s.ldmList p u sb w rn list) := by
  rw [State.ldmList_eq]
  have loaded : ∀ b, b = s.bank ∨ b = .usr → ∀ start final, CpuOps s (s.ldmLoaded b start final w rn (regList list)) := by
    intro b hb start final
    refine ((readWords _ s start).trans (writeBack _ w rn final)).trans (writeRegs b _ _ _ ?_)
    cases w <;> simpa [State.bank] using hb
  have m := loaded (if sb && !list.getLsbD 15 then .usr else s.bank) (by split <;> simp)
  exact either ((m _ _).trans (.single (.restoreFromSpsr _))) (m _ _)

theorem ldmEmpty (s : State) (p u sb w : Bool) (rn : Reg) : CpuOps s (s.ldmEmpty p u sb w rn) :=
  ((((noteEmptyList s).trans (memRead _ _ 4)).trans (writeBack _ w rn _)).trans
    (either (.single (.restoreFromSpsr _)) .refl)).trans (branchTo _ _)

theorem stmList (s : State) (p u sb w : Bool) (rn : Reg) (list : BitVec 16) : CpuOps s (s.stmList p u sb w rn list) :=
  (writeWords _ s _).trans (writeBack _ _ _ _)

theorem stmEmpty (s : State) (p u w : Bool) (rn : Reg) : CpuOps s (s.stmEmpty p u w rn) :=
  ((noteEmptyList s).trans (memWrite _ _ 4 _)).trans (writeBack _ _ _ _)

theorem pushRegs (s : State) (rs : List Reg) : CpuOps s (s.pushRegs rs) := (writeWords _ s _).trans (writeReg _ _ _)

theorem pushEmpty (s : State) : CpuOps s s.pushEmpty := ((noteEmptyList s).trans (memWrite _ _ 4 _)).trans (writeReg _ _ _)

theorem popRegs (s : State) (rs : List Reg) : CpuOps s (s.popRegs rs) :=
  ((readWords _ s _).trans (writeRegs s.bank rs _ _ (.inl (by simp [State.bank])))).trans (writeReg _ _ _)

theorem loadPcAlone (s : State) (rb : Reg) : CpuOps s (s.loadPcAlone rb) :=
  (((noteEmptyList s).trans (memRead _ _ 4)).trans (writeReg _ _ _)).trans (branchTo _ _)

theorem stmiaList (s : State) (rb : Reg) (rs : List Reg) : CpuOps s (s.stmiaList rb rs) :=
  (writeWords _ s _).trans (writeReg _ _ _)

theorem stmiaEmpty (s : State) (rb : Reg) : CpuOps s (s.stmiaEmpty rb) :=
  ((noteEmptyList s).trans (memWrite _ _ 4 _)).trans (writeReg _ _ _)

theorem ldmiaList (s : State) (rb : Reg) (rs : List Reg) : CpuOps s (s.ldmiaList rb rs) :=
  ((readWords _ s _).trans (writeReg _ _ _)).trans (writeRegs s.bank rs _ _ (.inl (by simp [State.bank])))

/-! ### One instruction -/

theorem execArm {c : Cond} {op : State → State} {s t : State} (h : execArm c op s = .next t) (hop : ∀ u, CpuOps u (op u)) :
    CpuOps s t := by
  have begun : CpuOps s s.begin := .single (.begin s)
  cases hc : condPassed s.cpsr c with
  | true =>
    obtain rfl := Host.Outcome.next.inj ((execArm_pass hc).symm.trans h)
    have noted : CpuOps s (s.begin.noteCond c) := begun.trans (either (emitHere _ _) .refl)
    exact (noted.trans (hop _)).trans (.single (.finish _ _))
  | false =>
    obtain rfl := Host.Outcome.next.inj ((execArm_fail hc).symm.trans h)
    rw [← State.finish_none (s := s.begin) (oldT := s.cpsr.t) rfl rfl]
    exact begun.trans (.single (.finish _ _))

theorem execThumb {op : State → State} {s t : State} (h : execThumb op s = .next t) (hop : ∀ u, CpuOps u (op u)) : CpuOps s t := by
  obtain rfl := Host.Outcome.next.inj h
  exact ((CpuOps.single (.begin s)).trans (hop _)).trans (.single (.finish _ _))

/-- Every instruction but SWI is a run of these operations. -/
theorem exec {i : Instr} {s t : State} (h : exec i s = .next t) (arm : ∀ c n, i ≠ .swi c n) (thumb : ∀ n, i ≠ .tSwi n) :
    CpuOps s t := by
  unfold Machine.exec at h
  cases i with
  | swi => exact absurd rfl (arm _ _)
  | tSwi => exact absurd rfl (thumb _)
  | and | eor | orr | bic => exact execArm h fun u => aluLogical u _ _ _ _ _
  | mov | mvn => exact execArm h fun u => aluMove u _ _ _ _
  | sub | rsb | add | adc | sbc | rsc => exact execArm h fun u => aluArith u _ _ _ _ _
  | tst | teq => exact execArm h fun u => logicalFlags u _ _
  | cmp | cmn => exact execArm h fun u => arithFlags u _
  | mul | mla => exact execArm h fun u => mulWrite u _ _ _
  | umull | umlal | smull | smlal => exact execArm h fun u => mullWrite u _ _ _ _
  | mrs => exact execArm h fun u => either (mrsSpsr u _) (writeReg u _ _)
  | msr => exact execArm h fun u => either (.single (.msrSpsr u _ _)) (.single (.msrCpsr u _ _))
  | b => exact execArm h fun u => branchTo u _
  | bl => exact execArm h fun u => (writeReg u _ _).trans (branchTo _ _)
  | bx => exact execArm h fun u => branchExchange u _
  | undefHalf | undefMul | undefMedia | cdp | ldc | stc | mrc | mcr => exact execArm h fun u => emitHere u _
  | ldr | ldrt => exact execArm h fun u => loadTransfer loadWord u _ _ _
  | ldrb | ldrbt => exact execArm h fun u => loadTransfer loadByte u _ _ _
  | ldrh => exact execArm h fun u => loadTransfer loadHalf u _ _ _
  | ldrsb => exact execArm h fun u => loadTransfer loadByteSigned u _ _ _
  | ldrsh => exact execArm h fun u => loadTransfer loadHalfSigned u _ _ _
  | str | strt => exact execArm h fun u => storeTransfer storeWord u _ _ _
  | strb | strbt => exact execArm h fun u => storeTransfer storeByte u _ _ _
  | strh => exact execArm h fun u => storeTransfer storeHalf u _ _ _
  | swp => exact execArm h fun u => swap loadWord storeWord u _ _ _
  | swpb => exact execArm h fun u => swap loadByte storeByte u _ _ _
  | ldm => exact execArm h fun u => either (ldmEmpty u _ _ _ _ _) (ldmList u _ _ _ _ _ _)
  | stm => exact execArm h fun u => either (stmEmpty u _ _ _ _) (stmList u _ _ _ _ _ _)
  | tLslImm | tLsrImm | tAsrImm | tMovImm | tAnd | tEor | tLsl | tLsr | tAsr | tRor | tOrr | tBic | tMvn =>
    exact execThumb h fun u => tLogical u _ _
  | tAddReg | tSubReg | tAddImm3 | tSubImm3 | tAddImm8 | tSubImm8 | tAdc | tSbc | tNeg => exact execThumb h fun u => tArith u _ _
  | tTst => exact execThumb h fun u => logicalFlags u _ _
  | tCmpImm | tCmp | tCmn | tCmpHi => exact execThumb h fun u => arithFlags u _
  | tMul => exact execThumb h fun u => mulWrite u _ _ _
  | tAddHi | tMovHi | tAddPc | tAddSp | tAddSpImm | tSubSpImm | tBlPrefix => exact execThumb h fun u => writeReg u _ _
  | tBx => exact execThumb h fun u => branchExchange u _
  | tLdrPc | tLdrReg | tLdrImm | tLdrSp => exact execThumb h fun u => tLoad loadWord u _ _
  | tLdrbReg | tLdrbImm => exact execThumb h fun u => tLoad loadByte u _ _
  | tLdrhReg | tLdrhImm => exact execThumb h fun u => tLoad loadHalf u _ _
  | tLdsbReg => exact execThumb h fun u => tLoad loadByteSigned u _ _
  | tLdshReg => exact execThumb h fun u => tLoad loadHalfSigned u _ _
  | tStrReg | tStrImm | tStrSp => exact execThumb h fun u => storeWord u _ _
  | tStrbReg | tStrbImm => exact execThumb h fun u => storeByte u _ _
  | tStrhReg | tStrhImm => exact execThumb h fun u => storeHalf u _ _
  | tPush => exact execThumb h fun u => either (pushEmpty u) (pushRegs u _)
  | tPop => exact execThumb h fun u => either (loadPcAlone u _) (popRegs u _)
  | tStmia => exact execThumb h fun u => either (stmiaEmpty u _) (stmiaList u _ _)
  | tLdmia => exact execThumb h fun u => either (loadPcAlone u _) (ldmiaList u _ _)
  | tBcond => exact execThumb h fun u => either (branchTo u _) .refl
  | tB => exact execThumb h fun u => branchTo u _
  | tBlSuffix => exact execThumb h fun u => (branchTo u _).trans (writeReg _ _ _)
  | tUndefB | tUndefDE | tUndefE8 => exact execThumb h fun u => emitHere u _

end CpuOps

end Sys2Proof.Machine

/-! ## usr mode stays confined (R421, R422) -/

namespace Sys2Proof.Machine

namespace State

/-- The end of a step touches no device, status register or general register (R152 to R154). -/
theorem finish_keeps (s : State) (oldT : Bool) :
    SameDevices s (s.finish oldT) ∧ SameSpsrs s (s.finish oldT) ∧ (s.finish oldT).cpsr = s.cpsr ∧
      (s.finish oldT).gpr = s.gpr := by
  unfold finish
  split
  · exact ⟨by constructor <;> rfl, by constructor <;> rfl, rfl, rfl⟩
  · split
    · exact ⟨by constructor <;> simp, by constructor <;> simp, by simp, by simp⟩
    · exact ⟨by constructor <;> rfl, by constructor <;> rfl, rfl, rfl⟩

theorem bank_of_usr {s : State} (usr : s.cpsr.mode = 0x10) : s.bank = .usr := by
  unfold bank; rw [usr]; rfl

/-- In usr mode there is no SPSR to return from (R235). -/
theorem restoreFromSpsr_of_usr {s : State} (usr : s.cpsr.mode = 0x10) :
    s.restoreFromSpsr = s.emitHere (.unpredictable .spsrAccess) := by
  rw [restoreFromSpsr, bank_of_usr usr]; rfl

/-- In usr mode there is no SPSR to write (R235). -/
theorem msrSpsr_of_usr {s : State} (usr : s.cpsr.mode = 0x10) (mask : BitVec 4) (v : Word) :
    s.msrSpsr mask v = s.emitHere (.unpredictable .spsrAccess) := by
  rw [msrSpsr, bank_of_usr usr]; rfl

end State

/-- From `s` to `t` the mode, the masks, the SPSRs and the registers outside the usr bank are as they were. -/
structure Confined (s t : State) : Prop where
  mode  : t.cpsr.mode = s.cpsr.mode
  i     : t.cpsr.i = s.cpsr.i
  f     : t.cpsr.f = s.cpsr.f
  spsrs : SameSpsrs s t
  regs  : ∀ (b : Bank) (r : Reg), r ≠ 15 → (∀ q : Reg, physIndex b r ≠ physIndex .usr q) → t.readBank b r = s.readBank b r

namespace Confined

theorem refl (s : State) : Confined s s := ⟨rfl, rfl, rfl, ⟨rfl, rfl, rfl, rfl, rfl⟩, fun _ _ _ _ => rfl⟩

theorem trans {s t u : State} (h : Confined s t) (g : Confined t u) : Confined s u :=
  ⟨g.mode.trans h.mode, g.i.trans h.i, g.f.trans h.f, h.spsrs.trans g.spsrs,
    fun b r hr hq => (g.regs b r hr hq).trans (h.regs b r hr hq)⟩

/-- An operation that writes no general register. -/
theorem of_gpr {s t : State} (gpr : t.gpr = s.gpr) (spsrs : SameSpsrs s t) (mode : t.cpsr.mode = s.cpsr.mode)
    (i : t.cpsr.i = s.cpsr.i) (f : t.cpsr.f = s.cpsr.f) : Confined s t :=
  ⟨mode, i, f, spsrs, fun b _ hr _ => State.readBank_congr_of_ne gpr b hr⟩

/-- A write to a register of the usr bank. -/
theorem writeUser (s : State) (r : Reg) (v : Word) : Confined s (s.writeUser r v) := by
  unfold State.writeUser
  exact ⟨by simp, by simp, by simp, by constructor <;> simp,
    fun b q _ hq => State.readBank_writeBank_other s .usr b r q v fun _ _ => hq r⟩

theorem emit (s : State) (k : DiagKind) (i : Word) : Confined s (s.emit k i) :=
  of_gpr rfl (by constructor <;> rfl) rfl rfl rfl

/-- An MSR in usr mode writes at most the flags (R421). -/
theorem msrCpsr {s : State} (usr : s.cpsr.mode = 0x10) (mask : BitVec 4) (v : Word) : Confined s (s.msrCpsr mask v) := by
  obtain ⟨regs, spsrs⟩ := (OpFrame.refl s).msrCpsr mask v
  have cpsr := s.msrCpsr_cpsr mask v
  simp only [usr, ne_eq, not_true, decide_false, Bool.and_false, Bool.false_eq_true, if_false] at cpsr
  exact ⟨by rw [cpsr, usr], by rw [cpsr], by rw [cpsr], spsrs, fun b r hr _ => regs b r hr (by simp)⟩

/-- No operation of an instruction leads out of usr mode. -/
theorem of_cpuOp {s t : State} (usr : s.cpsr.mode = 0x10) (h : CpuOp s t) : Confined s t := by
  cases h with
  | begin | branchTo | setFlags | setT => exact of_gpr rfl (by constructor <;> rfl) rfl rfl rfl
  | emit k i => exact emit s k i
  | writeReg r v =>
    rw [State.writeReg, State.bank_of_usr usr]
    exact writeUser s r v
  | writeUser r v => exact writeUser s r v
  | restoreFromSpsr =>
    rw [State.restoreFromSpsr_of_usr usr]
    exact emit s _ _
  | msrCpsr mask v => exact msrCpsr usr mask v
  | msrSpsr mask v =>
    rw [State.msrSpsr_of_usr usr]
    exact emit s _ _
  | memRead a n => exact of_gpr (by simp) (by constructor <;> simp) (by simp) (by simp) (by simp)
  | memWrite a n v => exact of_gpr (by simp) (by constructor <;> simp) (by simp) (by simp) (by simp)
  | finish oldT =>
    obtain ⟨-, spsrs, cpsr, gpr⟩ := s.finish_keeps oldT
    exact of_gpr gpr spsrs (by rw [cpsr]) (by rw [cpsr]) (by rw [cpsr])

theorem of_cpuOps {s t : State} (usr : s.cpsr.mode = 0x10) (h : CpuOps s t) : Confined s t := by
  induction h with
  | refl => exact refl s
  | tail _ op ih => exact ih.trans (of_cpuOp (ih.mode.trans usr) op)

end Confined

/-- Settles O43: an instruction is a run of operations, and in usr mode each of them is confined. -/
theorem userModeStaysConfined : Obligations.UserModeStaysConfined := by
  intro i s t usr arm thumb h
  obtain ⟨mode, i, f, spsrs, regs⟩ := Confined.of_cpuOps usr (CpuOps.exec h arm thumb)
  exact ⟨mode.trans usr, i, f, spsrs, regs⟩

/-! ## What the CPU keeps of the devices (R75, R155)

The CPU reaches a device only by byte writes to I/O registers. -/

/-- A property of the devices that every byte write to an I/O register keeps. -/
structure DeviceInv (P : State → Prop) : Prop where
  congr   : ∀ {s t : State}, SameDevices s t → P s → P t
  ioWrite : ∀ {s : State} (o : Nat) (b : Byte), P s → P (s.ioWriteByte o b)

namespace DeviceInv

variable {P : State → Prop}

theorem busWriteByte (h : DeviceInv P) {s : State} (a : Word) (b : Byte) (hs : P s) : P (s.busWriteByte a b) := by
  by_cases io : ∃ o, region a = .io o
  · obtain ⟨o, e⟩ := io
    rw [State.busWriteByte, e]
    exact h.ioWrite o b hs
  · exact h.congr (State.busWriteByte_noIo b fun o e => io ⟨o, e⟩) hs

theorem writeBytes (h : DeviceInv P) (k : Nat) : ∀ {s : State} (a v : Word), P s → P (s.writeBytes a v k) := by
  induction k with
  | zero => exact fun _ _ hs => hs
  | succ k ih => exact fun a v hs => ih _ _ (h.busWriteByte a _ hs)

theorem memWrite (h : DeviceInv P) {s : State} (a : Word) (n : Nat) (v : Word) (hs : P s) : P (s.memWrite a n v) := by
  unfold State.memWrite State.busWrite
  refine h.writeBytes n _ v (h.congr ?_ hs)
  constructor <;> (repeat' split) <;> rfl

theorem memRead (h : DeviceInv P) {s : State} (a : Word) (n : Nat) (hs : P s) : P (s.memRead a n).2 :=
  h.congr (by constructor <;> simp) hs

theorem cpuOp (h : DeviceInv P) {s t : State} (op : CpuOp s t) (hs : P s) : P t := by
  cases op with
  | begin | emit | branchTo | setFlags | setT => exact h.congr (by constructor <;> rfl) hs
  | writeReg r v => exact h.congr (by constructor <;> simp) hs
  | writeUser r v => exact h.congr (by unfold State.writeUser; constructor <;> simp) hs
  | restoreFromSpsr => exact h.congr ((OpFrame.refl s).restoreFromSpsr rfl).1.devices hs
  | msrCpsr mask v => exact h.congr ((OpFrame.refl s).msrCpsr mask v).devices hs
  | msrSpsr mask v => exact h.congr (by rw [State.msrSpsr_eq]; unfold State.noteSpsrAccess; constructor <;> (split <;> simp)) hs
  | memRead a n => exact h.memRead a n hs
  | memWrite a n v => exact h.memWrite a n v hs
  | finish oldT => exact h.congr (s.finish_keeps oldT).1 hs

theorem cpuOps (h : DeviceInv P) {s t : State} (ops : CpuOps s t) (hs : P s) : P t := by
  induction ops with
  | refl => exact hs
  | tail _ op ih => exact h.cpuOp op ih

/-- A SWI touches no device (R427). -/
theorem sameDevices_swi {c : Cond} {s t : State} (h : execArm c State.raiseSwi s = .next t) : SameDevices s t := by
  cases hc : condPassed s.cpsr c with
  | true =>
    obtain rfl := Host.Outcome.next.inj ((execArm_pass hc).symm.trans h)
    exact ((OpFrame.arm s c).entered_raiseSwi (by simp) _).devices
  | false =>
    obtain rfl := Host.Outcome.next.inj ((execArm_fail hc).symm.trans h)
    constructor <;> simp

theorem exec (h : DeviceInv P) {i : Instr} {s t : State} (run : exec i s = .next t) (hs : P s) : P t := by
  cases i with
  | swi => exact h.congr (sameDevices_swi run) hs
  | tSwi =>
    obtain rfl := Host.Outcome.next.inj run
    exact h.congr ((OpFrame.start s).entered_raiseSwi rfl _).devices hs
  | _ => exact h.cpuOps (CpuOps.exec run (fun _ _ => nofun) (fun _ => nofun)) hs

theorem cpuStep (h : DeviceInv P) {s t : State} {k : Config.StepKind} (hc : CpuStep s t k) (hs : P s) : P t := by
  cases hc with
  | halted => exact hs
  | irqEntry => exact h.congr (((OpFrame.refl s).entered_takeException rfl .irq _).devices) hs
  | refill => exact h.congr s.frame_refill.devices hs
  | execute _ _ _ run => exact h.exec run hs

end DeviceInv

end Sys2Proof.Machine

/-! ## The phases of a step and the devices (R441, R483, R489, R500) -/

namespace Sys2Proof.Machine

namespace State

/-- A request changes the interrupt flags and the halt state only (R441, R451). -/
theorem requestIf_frame (s : State) (b : Bool) (line : Nat) :
    ∃ i h, s.requestIf b line = { s with iflag := i, halted := h } := by
  unfold requestIf request releaseHalt
  split
  · split
    · exact ⟨_, s.halted, rfl⟩
    · exact ⟨_, false, rfl⟩
  · exact ⟨s.iflag, s.halted, rfl⟩

@[simp] theorem requestIf_gpr (s : State) (b : Bool) (line : Nat) : (s.requestIf b line).gpr = s.gpr := by
  obtain ⟨i, h, e⟩ := requestIf_frame s b line; rw [e]
@[simp] theorem requestIf_lcd (s : State) (b : Bool) (line : Nat) : (s.requestIf b line).lcd = s.lcd := by
  obtain ⟨i, h, e⟩ := requestIf_frame s b line; rw [e]
@[simp] theorem requestIf_dma (s : State) (b : Bool) (line : Nat) : (s.requestIf b line).dma = s.dma := by
  obtain ⟨i, h, e⟩ := requestIf_frame s b line; rw [e]
@[simp] theorem requestIf_timers (s : State) (b : Bool) (line : Nat) : (s.requestIf b line).timers = s.timers := by
  obtain ⟨i, h, e⟩ := requestIf_frame s b line; rw [e]
@[simp] theorem requestIf_vblankPulse (s : State) (b : Bool) (line : Nat) : (s.requestIf b line).vblankPulse = s.vblankPulse := by
  obtain ⟨i, h, e⟩ := requestIf_frame s b line; rw [e]
@[simp] theorem requestIf_hblankPulse (s : State) (b : Bool) (line : Nat) : (s.requestIf b line).hblankPulse = s.hblankPulse := by
  obtain ⟨i, h, e⟩ := requestIf_frame s b line; rw [e]

/-- Ticks change the timers, the interrupt flags and the halt state only (R484). -/
theorem tick_frame (l : List (Fin 4)) : ∀ s : State, ∃ tm i h, s.tick l = { s with timers := tm, iflag := i, halted := h } := by
  induction l with
  | nil => exact fun s => ⟨s.timers, s.iflag, s.halted, rfl⟩
  | cons n rest ih =>
    intro s
    unfold tick
    simp only
    obtain ⟨i, h, e⟩ := requestIf_frame (s.setTimer n { s.timers[n] with counter := s.timers[n].reload }) s.timers[n].irq (3 + n)
    split
    · rw [e]
      split
      · exact ⟨_, i, h, rfl⟩
      · split
        · obtain ⟨tm, i', h', e'⟩ := ih { s.setTimer n { s.timers[n] with counter := s.timers[n].reload } with iflag := i, halted := h }
          exact ⟨tm, i', h', e'⟩
        · exact ⟨_, i, h, rfl⟩
    · exact ⟨_, s.iflag, s.halted, rfl⟩

theorem tickTimes_frame (n : Fin 4) (k : Nat) : ∀ s : State,
    ∃ tm i h, s.tickTimes n k = { s with timers := tm, iflag := i, halted := h } := by
  induction k with
  | zero => exact fun s => ⟨s.timers, s.iflag, s.halted, rfl⟩
  | succ k ih =>
    intro s
    obtain ⟨tm, i, h, e⟩ := tick_frame (timersFrom n) s
    obtain ⟨tm', i', h', e'⟩ := ih (s.tick (timersFrom n))
    exact ⟨tm', i', h', by rw [tickTimes, e', e]⟩

/-- The timers change themselves, the interrupt flags and the halt state only (R483). -/
theorem timersRun_frame (c : Nat) (l : List (Fin 4)) : ∀ s : State,
    ∃ tm i h, s.timersRun c l = { s with timers := tm, iflag := i, halted := h } := by
  induction l with
  | nil => exact fun s => ⟨s.timers, s.iflag, s.halted, rfl⟩
  | cons n rest ih =>
    intro s
    unfold timersRun
    simp only
    split
    · obtain ⟨tm, i, h, e⟩ := tickTimes_frame n ((s.timers[n].acc + c) / s.timers[n].period)
        (s.setTimer n { s.timers[n] with acc := (s.timers[n].acc + c) % s.timers[n].period })
      rw [e]
      obtain ⟨tm', i', h', e'⟩ := ih { s with timers := tm, iflag := i, halted := h }
      exact ⟨tm', i', h', e'⟩
    · exact ih s

/-- A key sample changes the keys, the interrupt flags and the halt state only (R499). -/
theorem sampleKeys_frame (s : State) :
    ∃ ks inp i h, s.sampleKeys = { s with keyState := ks, keyInput := inp, iflag := i, halted := h } := by
  unfold sampleKeys
  split
  · exact ⟨_, _, _, _, rfl⟩
  · next k rest _ =>
    simp only
    split
    · exact ⟨s.keyState, rest, s.iflag, s.halted, rfl⟩
    · obtain ⟨i, h, e⟩ := requestIf_frame { s with keyInput := rest, keyState := k }
        (s.keycnt.getLsbD 14 && keyCondition s.keycnt k) 12
      exact ⟨k, rest, i, h, e⟩

/-! ### One LCD cycle (R489 to R491): it advances the counter, and something happens at two points of a line only -/

/-- The LCD's own cycle counter goes up. -/
def lcdTick (s : State) : State := s.mapLcd fun l => { l with cycle := l.cycle + 1 }

/-- The cycle counter is back at the start of a line. -/
def lcdReturn (s : State) : State := s.mapLcd fun l => { l with cycle := 0 }

theorem lcdCycle_within {s : State} (h : s.lcd.cycle ≠ 959) (w : s.lcd.cycle ≠ 1231) : s.lcdCycle = s.lcdTick := by
  have point : s.lcdTick.hblankPoint = s.lcdTick := if_neg fun e => h (Nat.succ.inj e)
  show s.lcdTick.hblankPoint.endOfLine = _
  rw [point]
  exact if_neg fun e => w (Nat.succ.inj e)

theorem lcdCycle_hblank {s : State} (h : s.lcd.cycle = 959) : s.lcdCycle = s.lcdTick.hblankStart := by
  have tick : s.lcdTick.lcd.cycle = 960 := congrArg (· + 1) h
  have point : s.lcdTick.hblankPoint = s.lcdTick.hblankStart := if_pos tick
  show s.lcdTick.hblankPoint.endOfLine = _
  rw [point]
  refine if_neg ?_
  simp [hblankStart, mapLcd, tick]

theorem lcdCycle_wrap {s : State} (h : s.lcd.cycle = 1231) : s.lcdCycle = s.lcdReturn.lineWrap := by
  have tick : s.lcdTick.lcd.cycle = 1232 := congrArg (· + 1) h
  have point : s.lcdTick.hblankPoint = s.lcdTick := if_neg fun e => by omega
  show s.lcdTick.hblankPoint.endOfLine = _
  rw [point]
  exact if_pos tick

/-! ### What the LCD's steps do to its registers, its requests and its pulses -/

@[simp] theorem mapLcd_lcd (s : State) (f : Lcd → Lcd) : (s.mapLcd f).lcd = f s.lcd := rfl
@[simp] theorem mapLcd_iflag (s : State) (f : Lcd → Lcd) : (s.mapLcd f).iflag = s.iflag := rfl
@[simp] theorem mapLcd_vblankPulse (s : State) (f : Lcd → Lcd) : (s.mapLcd f).vblankPulse = s.vblankPulse := rfl
@[simp] theorem mapLcd_hblankPulse (s : State) (f : Lcd → Lcd) : (s.mapLcd f).hblankPulse = s.hblankPulse := rfl

/-- Drawing a line changes the pixel sink only (R496). -/
theorem drawLine_frame (s : State) : ∃ p, s.drawLine = { s with pixels := p } := by
  unfold drawLine
  split
  · exact ⟨_, rfl⟩
  · exact ⟨s.pixels, rfl⟩

@[simp] theorem drawLine_lcd (s : State) : s.drawLine.lcd = s.lcd := by obtain ⟨p, e⟩ := s.drawLine_frame; rw [e]
@[simp] theorem drawLine_iflag (s : State) : s.drawLine.iflag = s.iflag := by obtain ⟨p, e⟩ := s.drawLine_frame; rw [e]
@[simp] theorem drawLine_vblankPulse (s : State) : s.drawLine.vblankPulse = s.vblankPulse := by
  obtain ⟨p, e⟩ := s.drawLine_frame; rw [e]
@[simp] theorem drawLine_hblankPulse (s : State) : s.drawLine.hblankPulse = s.hblankPulse := by
  obtain ⟨p, e⟩ := s.drawLine_frame; rw [e]

/-- A guarded request sets the bit of its line (R441). -/
theorem requestIf_getLsbD (s : State) (b : Bool) {line : Nat} (hl : line < 16) (k : Nat) :
    (s.requestIf b line).iflag.getLsbD k = (s.iflag.getLsbD k || (decide (k = line) && b)) := by
  have bit : (1#16 <<< line).getLsbD k = decide (k = line) := by
    rw [BitVec.getLsbD_shiftLeft, BitVec.getLsbD_one, Bool.eq_iff_iff]
    simp only [Bool.and_eq_true, Bool.not_eq_true', decide_eq_true_eq, decide_eq_false_iff_not]
    omega
  cases b
  · simp [requestIf]
  · rw [requestIf, if_pos rfl, request_iflag, BitVec.getLsbD_or, bit, Bool.and_true]

/-- The start of HBlank: the flag, the request and the pulse (R490). -/
theorem hblankStart_spec (s : State) :
    let t := s.hblankStart
    t.lcd = { s.lcd with hblank := true } ∧ t.hblankPulse = true ∧ t.vblankPulse = s.vblankPulse ∧
    ∀ k, t.iflag.getLsbD k = (s.iflag.getLsbD k || (decide (k = 1) && s.lcd.dispstat.getLsbD 4)) :=
  ⟨by simp [hblankStart], rfl, by simp [hblankStart], fun k => requestIf_getLsbD _ _ (by decide) k⟩

/-- The start of VBlank: the flag, the request and the pulse (R491). -/
theorem vblankStart_spec (s : State) :
    let t := s.vblankStart
    t.lcd = { s.lcd with vblank := true } ∧ t.hblankPulse = s.hblankPulse ∧ t.vblankPulse = true ∧
    ∀ k, t.iflag.getLsbD k = (s.iflag.getLsbD k || (decide (k = 0) && s.lcd.dispstat.getLsbD 3)) :=
  ⟨by simp [vblankStart], by simp [vblankStart], rfl, fun k => requestIf_getLsbD _ _ (by decide) k⟩

/-- The comparison of two numbers as the decision that they are equal. -/
theorem natBeq_eq_decide (a b : Nat) : (a == b) = decide (a = b) := rfl

/-- The VCount check: the stored flag and the request (R492). -/
theorem vcountCheck_spec (s : State) :
    let t := s.vcountCheck
    let m := decide (s.lcd.scanline = (s.lcd.dispstat.extractLsb' 8 8).toNat)
    t.lcd = { s.lcd with vcountMatch := m } ∧ t.hblankPulse = s.hblankPulse ∧ t.vblankPulse = s.vblankPulse ∧
    ∀ k, t.iflag.getLsbD k = (s.iflag.getLsbD k || (decide (k = 2) && (m && s.lcd.dispstat.getLsbD 5))) :=
  ⟨by simp only [vcountCheck, requestIf_lcd, mapLcd_lcd, natBeq_eq_decide], by simp [vcountCheck], by simp [vcountCheck], fun k =>
    (requestIf_getLsbD _ _ (by decide) k).trans (by simp [natBeq_eq_decide])⟩

/-- The effect of the line just reached (R491). -/
theorem reachLine_spec (s : State) :
    let t := s.reachLine
    let n := s.lcd.scanline
    t.lcd = { s.lcd with scanline := if n = 228 then 0 else n
                         vblank := if n = 160 then true else if n = 228 then false else s.lcd.vblank } ∧
    t.hblankPulse = s.hblankPulse ∧ t.vblankPulse = (s.vblankPulse || decide (n = 160)) ∧
    ∀ k, t.iflag.getLsbD k = (s.iflag.getLsbD k || (decide (k = 0) && decide (n = 160) && s.lcd.dispstat.getLsbD 3)) := by
  intro t n
  by_cases h160 : n = 160
  · have e : t = s.vblankStart := if_pos h160
    obtain ⟨lcd, hpulse, vpulse, iflag⟩ := s.vblankStart_spec
    rw [e]
    refine ⟨lcd.trans ?_, hpulse, ?_, fun k => ?_⟩
    · simp [h160, show s.lcd.scanline = 160 from h160]
    · rw [vpulse]; simp [h160]
    · rw [iflag]; simp [h160]
  · by_cases h228 : n = 228
    · have e : t = s.mapLcd fun l => { l with scanline := 0, vblank := false } := (if_neg h160).trans (if_pos h228)
      rw [e]
      exact ⟨by simp [h228], rfl, by simp [h228], fun k => by simp [h228]⟩
    · have e : t = s := (if_neg h160).trans (if_neg h228)
      rw [e]
      exact ⟨by simp [h160, h228, n], rfl, by simp [h160], fun k => by simp [h160]⟩

/-- The next line counted, before it takes effect (R491). -/
def countLine (s : State) : State :=
  (s.mapLcd fun l => { l with hblank := false }).drawLine.mapLcd fun l => { l with scanline := l.scanline + 1 }

end State

/-- The line after a line of the frame (R491). -/
def nextLine (n : Nat) : Nat := if n = 227 then 0 else n + 1

namespace State

/-- The end of a line: the next line, its flags, its requests and the VBlank pulse (R491, R492). -/
theorem lineWrap_spec (s : State) :
    let t := s.lineWrap
    let n := s.lcd.scanline
    t.lcd.scanline = nextLine n ∧ t.lcd.cycle = s.lcd.cycle ∧ t.lcd.hblank = false ∧
    t.lcd.vblank = (if n = 159 then true else if n = 227 then false else s.lcd.vblank) ∧
    t.hblankPulse = s.hblankPulse ∧ t.vblankPulse = (s.vblankPulse || decide (n = 159)) ∧
    ∀ k, t.iflag.getLsbD k = (s.iflag.getLsbD k || (decide (k = 0) && decide (n = 159) && s.lcd.dispstat.getLsbD 3) ||
      (decide (k = 2) && (decide (nextLine n = (s.lcd.dispstat.extractLsb' 8 8).toNat) && s.lcd.dispstat.getLsbD 5))) := by
  intro t n
  have counted : s.countLine.lcd = { s.lcd with hblank := false, scanline := n + 1 } := by simp [countLine, n]
  have kept : s.countLine.iflag = s.iflag ∧ s.countLine.hblankPulse = s.hblankPulse ∧ s.countLine.vblankPulse = s.vblankPulse := by
    simp [countLine]
  obtain ⟨lcd, hpulse, vpulse, iflag⟩ := s.countLine.reachLine_spec
  obtain ⟨lcd', hpulse', vpulse', iflag'⟩ := s.countLine.reachLine.vcountCheck_spec
  simp only [lcd, hpulse, vpulse, iflag, counted, kept, Nat.reduceEqDiff] at lcd' hpulse' vpulse' iflag'
  have e : t = s.countLine.reachLine.vcountCheck := rfl
  rw [e, lcd', hpulse', vpulse']
  exact ⟨rfl, rfl, rfl, rfl, rfl, rfl, iflag'⟩

end State

end Sys2Proof.Machine

/-! ## The LCD (R489 to R492) -/

namespace Sys2Proof.Machine

/-- The counters and the two flags decide the invariant. -/
theorem LcdInv.congr {s t : State} (h : LcdInv s) (scanline : t.lcd.scanline = s.lcd.scanline) (cycle : t.lcd.cycle = s.lcd.cycle)
    (vblank : t.lcd.vblank = s.lcd.vblank) (hblank : t.lcd.hblank = s.lcd.hblank) : LcdInv t :=
  ⟨scanline ▸ h.scanline, cycle ▸ h.cycle, by rw [vblank, scanline, h.vblank], by rw [hblank, cycle, h.hblank]⟩

/-- Where the counters are after a cycle. -/
theorem State.lcdCycle_counters (s : State) :
    let t := s.lcdCycle
    (s.lcd.cycle = 1231 → t.lcd.scanline = nextLine s.lcd.scanline ∧ t.lcd.cycle = 0) ∧
    (s.lcd.cycle ≠ 1231 → t.lcd.scanline = s.lcd.scanline ∧ t.lcd.cycle = s.lcd.cycle + 1) := by
  refine ⟨fun wrap => ?_, fun wrap => ?_⟩
  · obtain ⟨scanline, cycle, -⟩ := s.lcdReturn.lineWrap_spec
    rw [s.lcdCycle_wrap wrap]
    exact ⟨scanline, cycle⟩
  · by_cases h : s.lcd.cycle = 959
    · rw [s.lcdCycle_hblank h, s.lcdTick.hblankStart_spec.1]
      exact ⟨rfl, rfl⟩
    · rw [s.lcdCycle_within h wrap]
      exact ⟨rfl, rfl⟩

/-- What the two flags are after a cycle. -/
theorem State.lcdCycle_flags (s : State) :
    let t := s.lcdCycle
    let n := s.lcd.scanline
    (s.lcd.cycle = 1231 → t.lcd.vblank = (if n = 159 then true else if n = 227 then false else s.lcd.vblank) ∧
      t.lcd.hblank = false) ∧
    (s.lcd.cycle ≠ 1231 → t.lcd.vblank = s.lcd.vblank ∧ t.lcd.hblank = (s.lcd.hblank || decide (s.lcd.cycle = 959))) := by
  refine ⟨fun wrap => ?_, fun wrap => ?_⟩
  · obtain ⟨-, -, hblank, vblank, -⟩ := s.lcdReturn.lineWrap_spec
    rw [s.lcdCycle_wrap wrap]
    exact ⟨vblank, hblank⟩
  · by_cases h : s.lcd.cycle = 959
    · rw [s.lcdCycle_hblank h, s.lcdTick.hblankStart_spec.1]
      exact ⟨rfl, by simp [h]⟩
    · rw [s.lcdCycle_within h wrap]
      exact ⟨rfl, by simp [lcdTick, h]⟩

/-- A cycle keeps the flags equal to what the counters say. -/
theorem LcdInv.lcdCycle {s : State} (h : LcdInv s) : LcdInv s.lcdCycle := by
  obtain ⟨scanline, cycle, vblank, hblank⟩ := h
  obtain ⟨onWrap, within⟩ := s.lcdCycle_counters
  obtain ⟨flagsOnWrap, flagsWithin⟩ := s.lcdCycle_flags
  by_cases wrap : s.lcd.cycle = 1231
  · obtain ⟨line, zero⟩ := onWrap wrap
    obtain ⟨high, low⟩ := flagsOnWrap wrap
    refine ⟨?_, ?_, ?_, ?_⟩
    · rw [line, nextLine]; split <;> omega
    · rw [zero]; decide
    · rw [high, line, vblank, nextLine]; grind
    · rw [low, zero]; rfl
  · obtain ⟨line, next⟩ := within wrap
    obtain ⟨high, low⟩ := flagsWithin wrap
    refine ⟨line ▸ scanline, by omega, by rw [high, line, vblank], ?_⟩
    rw [low, hblank, next]
    grind

theorem LcdInv.lcdAdvance {s : State} (h : LcdInv s) (c : Nat) : LcdInv (s.lcdAdvance c) := by
  induction c generalizing s with
  | zero => exact h
  | succ c ih => exact ih h.lcdCycle

/-- A place of the frame. -/
theorem LcdInv.position_lt {s : State} (h : LcdInv s) : lcdPosition s < 280896 := by
  have := h.scanline
  have := h.cycle
  unfold lcdPosition
  omega

/-- A cycle is one place further in the frame (R489). -/
theorem lcdPosition_lcdCycle {s : State} (h : LcdInv s) : lcdPosition s.lcdCycle = (lcdPosition s + 1) % 280896 := by
  obtain ⟨onWrap, within⟩ := s.lcdCycle_counters
  have := h.scanline
  have := h.cycle
  unfold lcdPosition
  by_cases wrap : s.lcd.cycle = 1231
  · obtain ⟨line, zero⟩ := onWrap wrap
    unfold nextLine at line
    split at line <;> omega
  · obtain ⟨line, next⟩ := within wrap
    omega

theorem lcdPosition_lcdAdvance {s : State} (h : LcdInv s) (c : Nat) :
    lcdPosition (s.lcdAdvance c) = (lcdPosition s + c) % 280896 := by
  induction c generalizing s with
  | zero => rw [State.lcdAdvance, Nat.add_zero, Nat.mod_eq_of_lt h.position_lt]
  | succ c ih =>
    have first := lcdPosition_lcdCycle h
    have rest := ih h.lcdCycle
    rw [State.lcdAdvance]
    omega

/-- Settles O58: the position in the frame counts cycles, and the invariant gives the flags at it. -/
theorem lcdFramePosition : Obligations.LcdFramePosition := by
  intro s c h p t
  obtain ⟨-, cycle, vblank, hblank⟩ : LcdInv t := h.lcdAdvance c
  have place : t.lcd.scanline * 1232 + t.lcd.cycle = p := lcdPosition_lcdAdvance h c
  have line : t.lcd.scanline = p / 1232 := by omega
  have column : t.lcd.cycle = p % 1232 := by omega
  exact ⟨line, column, line ▸ vblank, column ▸ hblank⟩

/-- Settles O59: the two points of a line at which a cycle does more than count. -/
theorem lcdRequests : Obligations.LcdRequests := by
  intro s h t line wrap
  obtain ⟨onWrap, within⟩ := s.lcdCycle_counters
  have reach : line = 160 ↔ s.lcd.scanline = 159 := by
    have := h.scanline
    simp only [line]
    split <;> omega
  suffices requests : (∀ k, t.iflag.getLsbD k = _) ∧ t.hblankPulse = _ ∧ t.vblankPulse = _ from
    ⟨requests.1, requests.2.1, requests.2.2, onWrap, within, (SameCpu.lcdCycle s).gpr, s.lcdCycle_mem⟩
  by_cases w : s.lcd.cycle = 1231
  · obtain ⟨-, -, -, -, hpulse, vpulse, iflag⟩ := s.lcdReturn.lineWrap_spec
    have e : t = s.lcdReturn.lineWrap := s.lcdCycle_wrap w
    have noPoint : decide (s.lcd.cycle = 959) = false := by simp [w]
    have visible : decide (wrap ∧ line = 160) = decide (s.lcd.scanline = 159) := decide_eq_decide.2 ((and_iff_right w).trans reach)
    have setting : decide (wrap ∧ line = (s.lcd.dispstat.extractLsb' 8 8).toNat) =
        decide (nextLine s.lcd.scanline = (s.lcd.dispstat.extractLsb' 8 8).toNat) := decide_eq_decide.2 (and_iff_right w)
    rw [e]
    refine ⟨fun k => (iflag k).trans ?_, hpulse.trans ?_, vpulse.trans ?_⟩
    · rw [visible, setting, noPoint, Bool.and_false, Bool.false_and, Bool.or_false, Bool.and_assoc (decide (k = 2))]
      rfl
    · rw [noPoint, Bool.or_false]; rfl
    · rw [visible]; rfl
  · by_cases point : s.lcd.cycle = 959
    · obtain ⟨-, hpulse, vpulse, iflag⟩ := s.lcdTick.hblankStart_spec
      have e : t = s.lcdTick.hblankStart := s.lcdCycle_hblank point
      rw [e]
      refine ⟨fun k => (iflag k).trans ?_, hpulse.trans ?_, vpulse.trans ?_⟩ <;> simp [wrap, point, State.lcdTick]
    · have e : t = s.lcdTick := s.lcdCycle_within point w
      rw [e]
      simp [wrap, w, point, State.lcdTick]

end Sys2Proof.Machine

/-! ## What a DMA phase keeps of the devices (R467 to R474) -/

namespace Sys2Proof.Machine

/-- A property of the devices that a transfer keeps, whichever channel runs: bus writes, the end interrupt, and changes of a channel
that leave its `go` bit. -/
structure TransferInv (P : State → Prop) : Prop extends DeviceInv P where
  request : ∀ {s : State} (n : Fin 4), P s → P (s.request (8 + n))
  channel : ∀ {s : State} (n : Fin 4) {ch : DmaChannel}, ch.go = s.dma[n].go → P s → P (s.setDma n ch)

namespace TransferInv

variable {P : State → Prop}

theorem requestIf (h : TransferInv P) {s : State} (b : Bool) (n : Fin 4) (hs : P s) : P (s.requestIf b (8 + n)) := by
  unfold State.requestIf
  split
  · exact h.request n hs
  · exact hs

theorem dmaUnit (h : TransferInv P) {s : State} (n : Fin 4) (unit : Nat) (hs : P s) : P (s.dmaUnit n unit) :=
  h.channel n rfl (h.memWrite _ _ _ (h.memRead _ _ hs))

theorem dmaComplete (h : TransferInv P) {s : State} (n : Fin 4) (hs : P s) : P (s.dmaComplete n) := by
  unfold State.dmaComplete
  simp only
  split <;> exact h.channel n rfl (h.requestIf _ n hs)

theorem dmaRun (h : TransferInv P) {s : State} (n : Fin 4) (hs : P s) : P (s.dmaRun n) := by
  have start : P (if s.dma[n].srcCtl = 3 then s.emit (.unpredictable .dmaSourceControl) (BitVec.ofNat 32 n) else s) := by
    split
    · exact h.congr (by constructor <;> rfl) hs
    · exact hs
  have turn : ∀ u, P u → P (u.dmaUnit n s.dma[n].unit) := fun u hu => h.dmaUnit n s.dma[n].unit hu
  have complete : ∀ u, P u → P (if u.dma[n].remaining = 0 then u.dmaComplete n else u) := by
    intro u hu
    split
    · exact h.dmaComplete n hu
    · exact hu
  exact complete _ (State.dmaLoop_preserves turn _ _ start)

/-- A property that says nothing of the `go` bits lasts through a DMA phase. -/
theorem dmaAdvance (h : TransferInv P) (channel : ∀ {s : State} (n : Fin 4) (ch : DmaChannel), P s → P (s.setDma n ch))
    (schedule : ∀ {s : State} (c : Nat), P s → P (s.dmaSchedule c)) {s : State} (c : Nat) (hs : P s) : P (s.dmaAdvance c) := by
  have all : ∀ (l : List (Fin 4)) {u : State}, P u → P (u.dmaRunAll l) := by
    intro l
    induction l with
    | nil => exact id
    | cons n rest ih =>
      intro u hu
      unfold State.dmaRunAll
      split
      · refine ih (channel n _ ?_)
        split
        · exact h.dmaRun n hu
        · exact hu
      · exact ih hu
  exact all _ (schedule c hs)

end TransferInv

/-! ## The LCD ranges last (R489 to R491) -/

/-- A byte write to an I/O register reaches no counter and no flag of the LCD (R493). -/
theorem State.ioWriteByte_counters (s : State) (o : Nat) (b : Byte) :
    let t := s.ioWriteByte o b
    t.lcd.scanline = s.lcd.scanline ∧ t.lcd.cycle = s.lcd.cycle ∧ t.lcd.vblank = s.lcd.vblank ∧ t.lcd.hblank = s.lcd.hblank := by
  unfold ioWriteByte
  split
  · next r k _ =>
    cases r with
    | dmaCntH n =>
      have lcd : (s.writeDmaCntH n k b).lcd = s.lcd := by unfold writeDmaCntH; simp only; (repeat' split) <;> rfl
      simp [ioWriteReg, lcd]
    | tmCntH n =>
      have lcd : (s.writeTmCntH n k b).lcd = s.lcd := by unfold writeTmCntH; simp only; split <;> rfl
      simp [ioWriteReg, lcd]
    | haltcnt =>
      have lcd : (s.writeHaltcnt b).lcd = s.lcd := by unfold writeHaltcnt; split <;> simp
      simp [ioWriteReg, lcd]
    | ime => simp only [ioWriteReg]; split <;> simp
    | _ => simp [ioWriteReg]
  · simp

namespace LcdInv

theorem of_lcd {s t : State} (h : LcdInv s) (lcd : t.lcd = s.lcd) : LcdInv t :=
  h.congr (by rw [lcd]) (by rw [lcd]) (by rw [lcd]) (by rw [lcd])

theorem transferInv : TransferInv LcdInv where
  congr same h := h.of_lcd same.lcd
  ioWrite o b h := by
    obtain ⟨scanline, cycle, vblank, hblank⟩ := State.ioWriteByte_counters _ o b
    exact h.congr scanline cycle vblank hblank
  request n h := h.of_lcd (by simp)
  channel n _ _ h := h.of_lcd rfl

theorem devices {s : State} (h : LcdInv s) (c : Nat) : LcdInv (s.devices c) := by
  obtain ⟨tm, i, ha, e⟩ := State.timersRun_frame c [0, 1, 2, 3] ((s.lcdAdvance c).dmaAdvance c)
  refine (transferInv.dmaAdvance (fun n ch hu => hu.of_lcd rfl) (fun c hu => hu.of_lcd rfl) c (h.lcdAdvance c)).of_lcd ?_
  rw [State.devices, State.timersAdvance, e]

end LcdInv

/-- Settles O47: the CPU, the DMA and the timers leave the counters and the flags alone, and every LCD cycle keeps them in range. -/
theorem stepKeepsLcdRanges : Obligations.StepKeepsLcdRanges := by
  intro s t h hs
  obtain ⟨u, k, hc, rfl⟩ := step_next hs
  obtain ⟨ks, inp, i, ha, e⟩ := s.sampleKeys_frame
  have sampled : LcdInv s.sampleKeys := h.of_lcd (by rw [e])
  exact (LcdInv.transferInv.cpuStep (.of_next hc) sampled).devices _

/-! ## The halt invariant lasts (R440, R446, R451) -/

namespace IrqInv

theorem of_eq {s t : State} (h : IrqInv s) (halted : t.halted = s.halted) (ie : t.ie = s.ie) (iflag : t.iflag = s.iflag) :
    IrqInv t := by
  unfold IrqInv at *
  rwa [halted, ie, iflag]

/-- Halt release establishes the halt invariant (R451). -/
theorem releaseHalt {s : State} (unrequested : s.iflag &&& 0xE080 = 0) : IrqInv s.releaseHalt := by
  refine ⟨fun halted => ?_, by simpa using unrequested⟩
  by_cases quiet : s.iflag &&& s.ie = 0
  · simpa using quiet
  · rw [State.releaseHalt, if_neg quiet] at halted
    exact absurd halted (by simp)

/-- A request of a line that has a source (R441, R446). -/
theorem request {s : State} (h : IrqInv s) {line : Nat} (source : (1#16 <<< line) &&& 0xE080 = 0) : IrqInv (s.request line) := by
  refine releaseHalt ?_
  show (s.iflag ||| (1#16 <<< line)) &&& 0xE080 = 0
  rw [BitVec.and_comm, BitVec.and_or_distrib_left, BitVec.and_comm, h.2, BitVec.and_comm, source]
  rfl

theorem requestIf {s : State} (h : IrqInv s) (b : Bool) {line : Nat} (source : (1#16 <<< line) &&& 0xE080 = 0) :
    IrqInv (s.requestIf b line) := by
  unfold State.requestIf
  split
  · exact h.request source
  · exact h

/-- Clearing interrupt flags keeps both parts (R443). -/
theorem clear {s : State} (h : IrqInv s) (m : Half) : IrqInv { s with iflag := s.iflag &&& m } := by
  have cleared : ∀ x : Half, s.iflag &&& x = 0 → (s.iflag &&& m) &&& x = 0 := by
    intro x hx
    rw [BitVec.and_assoc, BitVec.and_comm m, ← BitVec.and_assoc, hx]
    exact BitVec.zero_and
  exact ⟨fun halted => cleared _ (h.1 halted), cleared _ h.2⟩

theorem ioWriteByte {s : State} (h : IrqInv s) (o : Nat) (b : Byte) : IrqInv (s.ioWriteByte o b) := by
  unfold State.ioWriteByte
  split
  · next r k _ =>
    cases r with
    | ie => exact releaseHalt h.2
    | iflag => exact h.clear _
    | haltcnt =>
      show IrqInv (s.writeHaltcnt b)
      unfold State.writeHaltcnt
      split
      · exact h
      · exact releaseHalt h.2
    | dmaCntH n =>
      show IrqInv (s.writeDmaCntH n k b)
      unfold State.writeDmaCntH
      simp only
      (repeat' split) <;> exact h
    | tmCntH n =>
      show IrqInv (s.writeTmCntH n k b)
      unfold State.writeTmCntH
      simp only
      split <;> exact h
    | ime =>
      simp only [State.ioWriteReg]
      split <;> exact h
    | _ => exact h
  · exact h

/-- DMA requests lines 8 to 11 (R446). -/
theorem transferInv : TransferInv IrqInv where
  congr same h := h.of_eq same.halted same.ie same.iflag
  ioWrite o b h := h.ioWriteByte o b
  request n h := h.request (by revert n; decide)
  channel _ _ _ h := h

/-- The LCD requests lines 0 to 2 (R446). -/
theorem lcdCycle {s : State} (h : IrqInv s) : IrqInv s.lcdCycle := by
  by_cases wrap : s.lcd.cycle = 1231
  · rw [s.lcdCycle_wrap wrap]
    have counted : IrqInv s.lcdReturn.countLine := by
      obtain ⟨p, e⟩ := (s.lcdReturn.mapLcd fun l => { l with hblank := false }).drawLine_frame
      rw [State.countLine, e]
      exact h
    have reached : IrqInv s.lcdReturn.countLine.reachLine := by
      unfold State.reachLine
      split
      · exact (requestIf (s := s.lcdReturn.countLine.mapLcd _) counted _ (line := 0) (by decide)).of_eq rfl rfl rfl
      · split <;> exact counted
    exact requestIf (s := State.mapLcd _ _) reached _ (line := 2) (by decide)
  · by_cases point : s.lcd.cycle = 959
    · rw [s.lcdCycle_hblank point]
      exact (requestIf (s := s.lcdTick.mapLcd _) h _ (line := 1) (by decide)).of_eq rfl rfl rfl
    · rw [s.lcdCycle_within point wrap]
      exact h

theorem lcdAdvance {s : State} (h : IrqInv s) (c : Nat) : IrqInv (s.lcdAdvance c) := by
  induction c generalizing s with
  | zero => exact h
  | succ c ih => exact ih h.lcdCycle

/-- The timers request lines 3 to 6 (R446). -/
theorem tick {s : State} (h : IrqInv s) (l : List (Fin 4)) : IrqInv (s.tick l) := by
  induction l generalizing s with
  | nil => exact h
  | cons n rest ih =>
    have overflow : IrqInv ((s.setTimer n { s.timers[n] with counter := s.timers[n].reload }).requestIf s.timers[n].irq (3 + n)) :=
      requestIf (s := State.setTimer _ _ _) h _ (by revert n; decide)
    unfold State.tick
    simp only
    split
    · split
      · exact overflow
      · split
        · exact ih overflow
        · exact overflow
    · exact h

theorem tickTimes {s : State} (h : IrqInv s) (n : Fin 4) (k : Nat) : IrqInv (s.tickTimes n k) := by
  induction k generalizing s with
  | zero => exact h
  | succ k ih => exact ih (h.tick _)

theorem timersRun {s : State} (h : IrqInv s) (c : Nat) (l : List (Fin 4)) : IrqInv (s.timersRun c l) := by
  induction l generalizing s with
  | nil => exact h
  | cons n rest ih =>
    unfold State.timersRun
    simp only
    split
    · exact ih (tickTimes (s := State.setTimer _ _ _) h n _)
    · exact ih h

theorem devices {s : State} (h : IrqInv s) (c : Nat) : IrqInv (s.devices c) :=
  (transferInv.dmaAdvance (fun _ _ hu => hu) (fun _ hu => hu) c (h.lcdAdvance c)).timersRun c _

/-- The keypad requests line 12 (R446). -/
theorem sampleKeys {s : State} (h : IrqInv s) : IrqInv s.sampleKeys := by
  unfold State.sampleKeys
  split
  · exact h
  · simp only
    split
    · exact h
    · next k rest _ _ => exact requestIf (s := { s with keyInput := rest, keyState := k }) h _ (line := 12) (by decide)

end IrqInv

/-- Settles O46: a request or a write to HALTCNT or IE ends with halt release, every line requested has a source, and nothing else
touches the halt state or the interrupt registers but a write that clears flags. -/
theorem stepKeepsHaltInvariant : Obligations.StepKeepsHaltInvariant := by
  intro s t h hs
  obtain ⟨u, k, hc, rfl⟩ := step_next hs
  exact (IrqInv.transferInv.cpuStep (.of_next hc) h.sampleKeys).devices _

end Sys2Proof.Machine

/-! ## The DMA phase (R464 to R466, R471, R474) -/

namespace Sys2Proof.Machine

/-- A channel at the start of a phase: its delay, and when it is due (R464, R465). -/
theorem DmaChannel.schedule_spec (ch : DmaChannel) (c : Nat) (v h : Bool) :
    let on := ch.cntH.getLsbD 15
    let timing := ch.cntH.extractLsb' 12 2
    let delay := if on then ch.delay - c else ch.delay
    ch.schedule c v h = { ch with delay := delay, go := (ch.schedule c v h).go } ∧
    ((ch.schedule c v h).go = true ↔ on = true ∧ delay = 0 ∧ (timing = 0 ∨ (timing = 1 ∧ v = true) ∨ (timing = 2 ∧ h = true))) := by
  intro on timing delay
  have counted : ch.countDown c = { ch with delay := delay } := by
    unfold countDown
    by_cases late : ch.enable = true ∧ 0 < ch.delay
    · rw [if_pos late]
      simp only [delay, on, show ch.cntH.getLsbD 15 = true from late.1, if_true]
    · rw [if_neg late]
      have : delay = ch.delay := by
        simp only [delay]
        split
        · next e => exact by have : ¬ 0 < ch.delay := fun pos => late ⟨e, pos⟩; omega
        · rfl
      rw [this]
  unfold schedule
  simp only [counted]
  refine ⟨trivial, ?_⟩
  simp only [starts, enable, DmaChannel.timing, Bool.and_eq_true, Bool.or_eq_true, beq_iff_eq]
  show (on = true ∧ delay = 0) ∧ ((timing = 0 ∨ timing = 1 ∧ v = true) ∨ timing = 2 ∧ h = true) ↔ _
  rw [and_assoc, or_assoc]

theorem State.dmaSchedule_channel (s : State) (c : Nat) (n : Fin 4) :
    (s.dmaSchedule c).dma[n] = s.dma[n].schedule c s.vblankPulse s.hblankPulse := by
  match n with
  | 0 | 1 | 2 | 3 => rfl

/-- A channel's turn in a phase: it runs when it is due and no earlier one has disabled it (R471, R474). -/
def State.dmaTurn (s : State) (n : Fin 4) : State :=
  State.dmaDone (if s.dma[n].go = true ∧ s.dma[n].enable = true then s.dmaRun n else s) n

/-- `go[n] <- 0` changes nothing where it is 0. -/
theorem State.dmaDone_of_not_go {s : State} {n : Fin 4} (h : s.dma[n].go = false) : s.dmaDone n = s := by
  have channel : { s.dma[n] with go := false } = s.dma[n] := by rw [← h]
  rw [dmaDone, channel, setDma]
  simp

/-- The channels have their turns one after the other (R471). -/
theorem State.dmaRunAll_cons (s : State) (n : Fin 4) (rest : List (Fin 4)) :
    s.dmaRunAll (n :: rest) = (s.dmaTurn n).dmaRunAll rest := by
  unfold dmaTurn
  rw [dmaRunAll]
  cases h : s.dma[n].go
  · simp [dmaDone_of_not_go h]
  · simp

/-! ### The go bits and the pulses are 0 between steps -/

/-- A channel that a write gives another value. -/
theorem State.setDma_dma_same (s : State) (n : Fin 4) (ch : DmaChannel) : (s.setDma n ch).dma[n] = ch := by
  simp [setDma]

theorem State.setDma_dma_other (s : State) {n m : Fin 4} (ch : DmaChannel) (h : m ≠ n) : (s.setDma n ch).dma[m] = s.dma[m] := by
  have : n.val ≠ m.val := fun g => h (Fin.ext g.symm)
  simp [setDma, this]

/-- A channel after a byte write to its control word: an enable edge latches, a change of the bit to 0 clears the delay (R463, R472). -/
def DmaChannel.written (ch : DmaChannel) (n : Fin 4) (k : Nat) (b : Byte) (startDelay : Nat) : DmaChannel :=
  let ch' := { ch with cntH := setHalfByte ch.cntH k b }
  if !ch.enable && ch'.enable then ch'.latch n startDelay
  else if ch.enable && !ch'.enable then { ch' with delay := 0 }
  else ch'

/-- A byte write to DMAnCNT_H changes that channel, and an edge with special timing leaves a diagnostic (R463, R466, R472). -/
theorem State.writeDmaCntH_eq (s : State) (n : Fin 4) (k : Nat) (b : Byte) :
    let ch' : DmaChannel := { s.dma[n] with cntH := setHalfByte s.dma[n].cntH k b }
    s.writeDmaCntH n k b = { s.setDma n (s.dma[n].written n k b s.params.dmaStartDelay) with
      diags := if (!s.dma[n].enable && ch'.enable) = true ∧ ch'.timing = 3 then ⟨.dmaSpecialNotImplemented, BitVec.ofNat 32 n⟩ :: s.diags
        else s.diags } := by
  unfold writeDmaCntH DmaChannel.written
  simp only
  by_cases edge : (!s.dma[n].enable && { s.dma[n] with cntH := setHalfByte s.dma[n].cntH k b }.enable) = true
  · simp only [edge, if_true, true_and]
    split <;> rfl
  · simp only [eq_false_of_ne_true edge, Bool.false_eq_true, false_and, if_false]
    split <;> rfl

theorem DmaChannel.written_go (ch : DmaChannel) (n : Fin 4) (k : Nat) (b : Byte) (d : Nat) : (ch.written n k b d).go = ch.go := by
  unfold written
  simp only
  (repeat' split) <;> rfl

/-- The pulses are 0, and so is the go bit of every channel outside `due`. -/
def QuietBut (due : List (Fin 4)) (s : State) : Prop :=
  s.vblankPulse = false ∧ s.hblankPulse = false ∧ ∀ n : Fin 4, n ∉ due → s.dma[n].go = false

/-- A byte write to an I/O register sets no go bit and no pulse. -/
theorem State.ioWriteByte_go (s : State) (o : Nat) (b : Byte) (n : Fin 4) : (s.ioWriteByte o b).dma[n].go = s.dma[n].go := by
  have set : ∀ (m : Fin 4) (ch : DmaChannel), ch.go = s.dma[m].go → (s.setDma m ch).dma[n].go = s.dma[n].go := by
    intro m ch go
    by_cases e : n = m
    · rw [e, setDma_dma_same, go]
    · rw [setDma_dma_other s ch e]
  have of_dma : ∀ {t : State}, t.dma = s.dma → t.dma[n].go = s.dma[n].go := fun h => by rw [h]
  unfold ioWriteByte
  split
  · next r k _ =>
    cases r with
    | dmaSad m | dmaDad m | dmaCntL m => exact set m _ rfl
    | dmaCntH m =>
      rw [ioWriteReg, writeDmaCntH_eq]
      exact set m _ (DmaChannel.written_go _ _ _ _ _)
    | tmCntH m => exact of_dma (by simp only [ioWriteReg, writeTmCntH]; split <;> rfl)
    | haltcnt => exact of_dma (by simp only [ioWriteReg, writeHaltcnt]; split <;> simp)
    | ime => exact of_dma (by simp only [ioWriteReg]; split <;> rfl)
    | ie => exact of_dma (by simp [ioWriteReg])
    | _ => rfl
  · rfl

theorem QuietBut.setDma {due : List (Fin 4)} {s : State} (h : QuietBut due s) (n : Fin 4) {ch : DmaChannel}
    (go : ch.go = s.dma[n].go) : QuietBut due (s.setDma n ch) := by
  refine ⟨h.1, h.2.1, fun m hm => ?_⟩
  by_cases e : m = n
  · rw [e, s.setDma_dma_same, go]
    exact h.2.2 n (e ▸ hm)
  · rw [s.setDma_dma_other ch e]
    exact h.2.2 m hm

theorem QuietBut.transferInv (due : List (Fin 4)) : TransferInv (QuietBut due) where
  congr same h := by
    unfold QuietBut
    rw [same.vblankPulse, same.hblankPulse, same.dma]
    exact h
  ioWrite o b h := ⟨by simp [h.1], by simp [h.2.1], fun n hn => (State.ioWriteByte_go _ o b n).trans (h.2.2 n hn)⟩
  request n h := by simpa [QuietBut] using h
  channel n _ go h := h.setDma n go

/-- A turn leaves its own go bit at 0. -/
theorem QuietBut.dmaTurn {n : Fin 4} {rest : List (Fin 4)} {s : State} (h : QuietBut (n :: rest) s) :
    QuietBut rest (s.dmaTurn n) := by
  have ran : QuietBut (n :: rest) (if s.dma[n].go = true ∧ s.dma[n].enable = true then s.dmaRun n else s) := by
    split
    · exact (transferInv _).dmaRun n h
    · exact h
  revert ran
  unfold State.dmaTurn
  generalize (if s.dma[n].go = true ∧ s.dma[n].enable = true then s.dmaRun n else s) = u
  intro ran
  refine ⟨ran.1, ran.2.1, fun m hm => ?_⟩
  rw [State.dmaDone]
  by_cases e : m = n
  · rw [e, u.setDma_dma_same]
  · rw [u.setDma_dma_other _ e]
    exact ran.2.2 m (by simp [e, hm])

theorem QuietBut.dmaRunAll (l : List (Fin 4)) : ∀ {s : State}, QuietBut l s → QuietBut [] (s.dmaRunAll l) := by
  induction l with
  | nil => exact id
  | cons n rest ih =>
    intro s h
    rw [State.dmaRunAll_cons]
    exact ih h.dmaTurn

/-- Whatever a step begins with, its DMA phase leaves the go bits and the pulses at 0, and the timers after it leave them alone. -/
theorem QuietBut.devices (s : State) (c : Nat) : QuietBut [] (s.devices c) := by
  have everyChannel : ∀ n : Fin 4, n ∈ ([0, 1, 2, 3] : List (Fin 4)) := by decide
  obtain ⟨tm, i, ha, e⟩ := State.timersRun_frame c [0, 1, 2, 3] ((s.lcdAdvance c).dmaAdvance c)
  rw [State.devices, State.timersAdvance, e]
  exact QuietBut.dmaRunAll [0, 1, 2, 3] ⟨rfl, rfl, fun n hn => absurd (everyChannel n) hn⟩

/-- Settles O49: the schedule channel by channel, the turns in order, and the phase at the end of every step. -/
theorem dmaPhaseStartsDueChannels : Obligations.DmaPhaseStartsDueChannels := by
  refine ⟨fun s c => ?_, fun s t h => ?_⟩
  · intro t turn
    refine ⟨fun n => ?_, rfl, ?_⟩
    · have channel : t.dma[n] = _ := s.dmaSchedule_channel c n
      obtain ⟨value, due⟩ := s.dma[n].schedule_spec c s.vblankPulse s.hblankPulse
      rw [channel]
      exact ⟨value, due⟩
    · show t.dmaRunAll [0, 1, 2, 3] = _
      rw [State.dmaRunAll_cons, State.dmaRunAll_cons, State.dmaRunAll_cons, State.dmaRunAll_cons]
      rfl
  · obtain ⟨u, k, -, rfl⟩ := step_next h
    obtain ⟨vblank, hblank, go⟩ := QuietBut.devices u (cyclesOf s.sampleKeys.params.cycles k)
    exact ⟨vblank, hblank, fun n => go n (by simp)⟩

end Sys2Proof.Machine

/-! ## The enable edge of a DMA channel (R462, R463, R472) -/

namespace Sys2Proof.Machine

/-- The byte with the enable bit of a channel (R74). -/
theorem State.busWriteByte_dmaCntH (s : State) (n : Fin 4) (b : Byte) :
    s.busWriteByte (BitVec.ofNat 32 (0x040000BB + 12 * n.val)) b = s.writeDmaCntH n 1 b := by
  match n with
  | 0 | 1 | 2 | 3 => rfl

/-- A bit of the high byte of a control word whose high byte is written. -/
theorem getLsbD_setHalfByte_high (h : Half) (b : Byte) (i : Nat) : (setHalfByte h 1 b).getLsbD (8 + i) = b.getLsbD i := by
  show (b ++ h.extractLsb' 0 8 : BitVec (8 + 8)).getLsbD (8 + i) = _
  rw [BitVec.getLsbD_append, if_neg (by omega), Nat.add_sub_cancel_left]

/-- The timing bits of a control word whose high byte is written. -/
theorem timing_setHalfByte (h : Half) (b : Byte) : (setHalfByte h 1 b).extractLsb' 12 2 = b.extractLsb' 4 2 := by
  refine BitVec.eq_of_getLsbD_eq fun i hi => ?_
  rw [BitVec.getLsbD_extractLsb', BitVec.getLsbD_extractLsb', show 12 + i = 8 + (4 + i) by omega, getLsbD_setHalfByte_high]

/-- What the high byte of the control word leaves of the channel, and what its enable bit latches or clears (R462, R463, R472). -/
theorem DmaChannel.written_spec (ch : DmaChannel) (n : Fin 4) (b : Byte) (d : Nat) :
    let t := ch.written n 1 b d
    let mask : Word := if n = 3 then 0x0FFFFFFF else 0x07FFFFFF
    let c := if n = 3 then ch.cntL.toNat else ch.cntL.toNat % 0x4000
    t.cntH = b ++ ch.cntH.extractLsb' 0 8 ∧ t.sad = ch.sad ∧ t.dad = ch.dad ∧ t.cntL = ch.cntL ∧ t.go = ch.go ∧
    (ch.cntH.getLsbD 15 = false → b.getLsbD 7 = true →
      t.curSrc = ch.sad &&& mask ∧ t.curDst = ch.dad &&& mask ∧ t.delay = d ∧
      t.remaining = (if c = 0 then (if n = 3 then 0x10000 else 0x4000) else c)) ∧
    (ch.cntH.getLsbD 15 = true ∨ b.getLsbD 7 = false →
      t.curSrc = ch.curSrc ∧ t.curDst = ch.curDst ∧ t.remaining = ch.remaining ∧
      t.delay = (if ch.cntH.getLsbD 15 = true ∧ b.getLsbD 7 = false then 0 else ch.delay)) := by
  have word : setHalfByte ch.cntH 1 b = b ++ ch.cntH.extractLsb' 0 8 := rfl
  have count : dmaCount n ch.cntL = (if (if n = 3 then ch.cntL.toNat else ch.cntL.toNat % 0x4000) = 0 then
      (if n = 3 then 0x10000 else 0x4000) else (if n = 3 then ch.cntL.toNat else ch.cntL.toNat % 0x4000)) := by
    unfold dmaCount
    split <;> rfl
  have enable : (b ++ ch.cntH.extractLsb' 0 8 : Half).getLsbD 15 = b.getLsbD 7 := getLsbD_setHalfByte_high ch.cntH b 7
  unfold written
  simp only [DmaChannel.enable, word, enable]
  cases before : ch.cntH.getLsbD 15 <;> cases after : b.getLsbD 7 <;> simp [latch, dmaSrcMask, dmaDstMask, count]

/-- Settles O54: the byte write is one to the control word of its channel, and the channel it leaves is `written`. -/
theorem dmaEnableEdge : Obligations.DmaEnableEdge := by
  intro s n b a ch t mask c
  have e : t = _ := (s.busWriteByte_dmaCntH n b).trans (s.writeDmaCntH_eq n 1 b)
  have channel : t.dma[n] = ch.written n 1 b s.params.dmaStartDelay := by rw [e]; exact s.setDma_dma_same n _
  have other : ∀ m : Fin 4, m ≠ n → t.dma[m] = s.dma[m] := fun m hm => by rw [e]; exact s.setDma_dma_other _ hm
  have diags : t.diags = (if ch.cntH.getLsbD 15 = false ∧ b.getLsbD 7 = true ∧ b.extractLsb' 4 2 = 3
      then ⟨.dmaSpecialNotImplemented, BitVec.ofNat 32 n.val⟩ :: s.diags else s.diags) := by
    rw [e]
    have enable : (setHalfByte ch.cntH 1 b).getLsbD 15 = b.getLsbD 7 := getLsbD_setHalfByte_high ch.cntH b 7
    simp only [DmaChannel.enable, DmaChannel.timing, ch, enable, timing_setHalfByte, Bool.and_eq_true, Bool.not_eq_true',
      and_assoc]
  obtain ⟨cntH, sad, dad, cntL, go, edge, kept⟩ := ch.written_spec n b s.params.dmaStartDelay
  rw [channel]
  exact ⟨cntH, sad, dad, cntL, go, edge, kept, diags, other, by rw [e]; rfl⟩

end Sys2Proof.Machine

/-! ## One unit of a DMA transfer to RAM (R467, R468) -/

namespace Sys2Proof.Machine

namespace State

/-- A byte write to RAM changes the memory only. -/
theorem busWriteByte_ram {s : State} {a : Word} (v : Byte) (h : isRam a = true) :
    ∃ m, s.busWriteByte a v = { s with mem := m } := by
  obtain ⟨noIo, noSave⟩ := isRam_ne h
  unfold busWriteByte
  split
  · next o e => exact absurd e (noIo o)
  · next o e => exact absurd e (noSave o)
  all_goals exact ⟨_, rfl⟩

theorem writeBytes_ram (k : Nat) : ∀ {s : State} {a : Word} (v : Word), (∀ j < k, isRam (a + BitVec.ofNat 32 j) = true) →
    ∃ m, s.writeBytes a v k = { s with mem := m } := by
  induction k with
  | zero => exact fun _ _ => ⟨_, rfl⟩
  | succ k ih =>
    intro s a v h
    obtain ⟨m, one⟩ := busWriteByte_ram (s := s) (v.extractLsb' 0 8) (by simpa using h 0 (by omega) : isRam a = true)
    obtain ⟨m', rest⟩ := ih (s := s.busWriteByte a (v.extractLsb' 0 8)) (a := a + 1) (v >>> 8) fun j hj => by
      rw [← add_ofNat_succ]
      exact h (j + 1) (by omega)
    exact ⟨m', by rw [writeBytes, rest, one]⟩

/-- A bus write to RAM changes the memory and may leave a diagnostic. -/
theorem memWrite_ram {s : State} {a : Word} {n : Nat} (v : Word) (h : ∀ j < n, isRam (alignTo a n + BitVec.ofNat 32 j) = true) :
    ∃ m d, s.memWrite a n v = { s with mem := m, diags := d } := by
  unfold memWrite busWrite
  obtain ⟨m, e⟩ := writeBytes_ram n v h
  rw [e]
  refine ⟨m, ?_⟩
  (repeat' split) <;> exact ⟨_, rfl⟩

end State

/-- The address steps of a control field (R468; D28). -/
theorem dmaDstStep_eq (ctl : BitVec 2) (unit : Nat) :
    dmaDstStep ctl unit = if ctl = 1 then -(BitVec.ofNat 32 unit) else if ctl = 2 then 0 else BitVec.ofNat 32 unit := by
  match ctl with
  | 0 | 1 | 2 | 3 => rfl

theorem dmaSrcStep_eq (ctl : BitVec 2) (unit : Nat) : dmaSrcStep ctl unit = dmaDstStep ctl unit := rfl

/-- A channel after one unit (R467, R468). -/
def DmaChannel.moved (ch : DmaChannel) (unit : Nat) : DmaChannel :=
  { ch with curDst := ch.curDst + dmaDstStep ch.dstCtl unit, curSrc := ch.curSrc + dmaSrcStep ch.srcCtl unit,
            remaining := ch.remaining - 1 }

/-- A unit is a bus read, a bus write, and the step of the channel (R467). -/
theorem State.dmaUnit_eq (s : State) (n : Fin 4) (unit : Nat) :
    let r := s.memRead s.dma[n].curSrc unit
    let w := r.2.memWrite r.2.dma[n].curDst unit r.1
    s.dmaUnit n unit = w.setDma n (w.dma[n].moved unit) := rfl

/-- Settles O56: a bus read, which reaches the save device alone, a write to RAM, which changes the memory alone, then the channel. -/
theorem dmaUnitCopies : Obligations.DmaUnitCopies := by
  intro s n unit hu wf src dst ram t ch step
  obtain ⟨h, d, read⟩ := State.memRead_frame s src unit
  let s1 := (s.memRead src unit).2
  let v := (s.memRead src unit).1
  have dma : s1.dma = s.dma := s.memRead_dma src unit
  have mem : s1.mem = s.mem := s.memRead_mem src unit
  obtain ⟨m, d', write⟩ := State.memWrite_ram (s := s1) v ram
  have unitEq : t = (s1.memWrite s.dma[n].curDst unit v).setDma n (ch.moved unit) := by
    refine (s.dmaUnit_eq n unit).trans ?_
    rw [dma, write]
    show State.setDma _ n (s1.dma[n].moved unit) = _
    rw [dma]
  have copied : HoldsBytes (s1.memWrite s.dma[n].curDst unit v) dst unit v :=
    State.memWrite_same v (mem ▸ wf) (by omega) ram
  have others := State.memWrite_other s1 s.dma[n].curDst unit v
  have same : SameMemory s s1 := SameMemory.of_mem mem (s.memRead_params src unit)
  have moved : SameMemory (s1.memWrite s.dma[n].curDst unit v) t :=
    SameMemory.of_mem (by rw [unitEq]; rfl) (by rw [unitEq]; rfl)
  refine ⟨fun k hk => (moved _ (State.isMemory_of_isRam (ram k hk))).trans (copied k hk),
    fun a ha ne => ((moved a ha).trans (others a ha ne)).trans (same a ha), ?_, ?_, ?_⟩
  · rw [unitEq, write]
    simp only [State.setDma, DmaChannel.moved, dma, dmaSrcStep_eq, dmaDstStep_eq]
    rfl
  · refine (s.memRead_saveGrew src unit).congr ?_
    rw [unitEq, write]
    rfl
  · rw [unitEq, write]
    show ({ s1 with mem := s.mem, dma := s.dma, save := s.save, diags := s.diags } : State) = s
    rw [show s1 = { s with save := h, diags := d } from read]

end Sys2Proof.Machine

/-! ## Timers and keys (R481 to R484, R498, R499) -/

namespace Sys2Proof.Machine

namespace State

/-- A tick below 0xFFFF. -/
theorem tick_below {s : State} {n : Fin 4} {rest : List (Fin 4)} (h : s.timers[n].counter ≠ 0xFFFF) :
    s.tick (n :: rest) = s.setTimer n { s.timers[n] with counter := s.timers[n].counter + 1 } := by
  rw [tick]
  exact if_neg h

theorem timersFrom_cons (n : Fin 4) : ∃ rest, timersFrom n = n :: rest := by
  match n with
  | 0 | 1 | 2 | 3 => exact ⟨_, rfl⟩

/-- A timer whose value is replaced twice. -/
theorem setTimer_setTimer (s : State) (n : Fin 4) (t u : Timer) : (s.setTimer n t).setTimer n u = s.setTimer n u := by
  simp [setTimer]

theorem setTimer_timers_same (s : State) (n : Fin 4) (t : Timer) : (s.setTimer n t).timers[n] = t := by
  simp [setTimer]

theorem setTimer_self (s : State) (n : Fin 4) : s.setTimer n s.timers[n] = s := by
  simp [setTimer]

/-- Ticks below 0xFFFF count up. -/
theorem tickTimes_below (n : Fin 4) (k : Nat) : ∀ (s : State), s.timers[n].counter.toNat + k < 0x10000 →
    s.tickTimes n k = s.setTimer n { s.timers[n] with counter := s.timers[n].counter + BitVec.ofNat 16 k } := by
  induction k with
  | zero =>
    intro s _
    rw [tickTimes, BitVec.add_zero]
    exact (setTimer_self s n).symm
  | succ k ih =>
    intro s h
    obtain ⟨rest, e⟩ := timersFrom_cons n
    have below : s.timers[n].counter ≠ 0xFFFF := by bv_omega
    have next : (s.timers[n].counter + 1).toNat + k < 0x10000 := by bv_omega
    have count : s.timers[n].counter + 1 + BitVec.ofNat 16 k = s.timers[n].counter + BitVec.ofNat 16 (k + 1) := by bv_omega
    rw [tickTimes, e, tick_below below, ih _ (by rwa [setTimer_timers_same]), setTimer_timers_same, setTimer_setTimer, count]

/-- The timer at an overflow: the reload and the request (R484). -/
def overflow (s : State) (n : Fin 4) : State :=
  (s.setTimer n { s.timers[n] with counter := s.timers[n].reload }).requestIf s.timers[n].irq (3 + n)

theorem tick_last {s : State} {n : Fin 4} (h : s.timers[n].counter = 0xFFFF) : s.tick [n] = s.overflow n := by
  rw [tick]
  exact if_pos h

/-- An overflow ticks the next timer exactly when that is enabled and counts up (R484). -/
theorem tick_cascade {s : State} {n m : Fin 4} {rest : List (Fin 4)} (h : s.timers[n].counter = 0xFFFF) (hm : m ≠ n) :
    s.tick (n :: m :: rest) =
      if s.timers[m].control.getLsbD 7 = true ∧ s.timers[m].control.getLsbD 2 = true then (s.overflow n).tick (m :: rest)
      else s.overflow n := by
  have next : (s.overflow n).timers[m] = s.timers[m] := by
    have : n.val ≠ m.val := fun g => hm (Fin.ext g.symm)
    simp [overflow, setTimer, this]
  rw [tick]
  simp only [h, if_true]
  show (if ((s.overflow n).timers[m].enable && (s.overflow n).timers[m].countUp) = true then _ else _) = _
  simp only [next, Bool.and_eq_true]
  rfl

/-- The cascade of every timer (R484). -/
theorem tick_full (s : State) (n : Fin 4) (full : s.timers[n].counter = 0xFFFF) :
    s.tick (timersFrom n) =
      if h : n.val < 3 then
        let m : Fin 4 := ⟨n.val + 1, by omega⟩
        if s.timers[m].control.getLsbD 7 = true ∧ s.timers[m].control.getLsbD 2 = true then (s.overflow n).tick (timersFrom m)
        else s.overflow n
      else s.overflow n := by
  match n, full with
  | 0, full => exact tick_cascade (m := 1) full (by decide)
  | 1, full => exact tick_cascade (m := 2) full (by decide)
  | 2, full => exact tick_cascade (m := 3) full (by decide)
  | 3, full => exact tick_last full

end State

/-- The prescaler periods (R481). -/
theorem Timer.period_eq (t : Timer) :
    let sel := t.control.extractLsb' 0 2
    t.period = if sel = 0 then 1 else if sel = 1 then 64 else if sel = 2 then 256 else 1024 := by
  unfold period
  generalize t.control.extractLsb' 0 2 = sel
  match sel with
  | 0 | 1 | 2 | 3 => rfl

/-- Settles O57: the two cases of a tick, the ticks below an overflow, and the prescaled path of one timer. -/
theorem tickAndCascade : Obligations.TickAndCascade := by
  intro s n c tm
  refine ⟨fun below => ?_, fun full => ?_, fun k hk => State.tickTimes_below n k s hk, fun on noCascade => ?_⟩
  · obtain ⟨rest, e⟩ := State.timersFrom_cons n
    rw [e]
    exact State.tick_below below
  · exact State.tick_full s n full
  · intro sel period
    have path : (tm.enable && !tm.countUp) = true := by rw [Timer.enable, Timer.countUp, on, noCascade]; rfl
    show State.timersRun s c [n] = _
    unfold State.timersRun
    simp only [tm] at path
    simp only [path, if_true, Timer.period_eq]
    rfl

/-- The buttons pressed among those selected are all of them (R499). -/
theorem and_eq_right_iff (p sel : BitVec 10) : p &&& sel = sel ↔ ∀ b < 10, sel.getLsbD b = true → p.getLsbD b = true := by
  constructor
  · intro h b _ hb
    have := hb
    rw [← h, BitVec.getLsbD_and, Bool.and_eq_true] at this
    exact this.1
  · intro h
    refine BitVec.eq_of_getLsbD_eq fun b hb => ?_
    rw [BitVec.getLsbD_and]
    cases e : sel.getLsbD b
    · simp
    · simp [h b hb e]

/-- Some selected button is pressed (R499). -/
theorem and_ne_zero_iff (p sel : BitVec 10) : p &&& sel ≠ 0 ↔ ∃ b < 10, sel.getLsbD b = true ∧ p.getLsbD b = true := by
  constructor
  · intro h
    refine Classical.byContradiction fun none => h (BitVec.eq_of_getLsbD_eq fun b hb => ?_)
    rw [BitVec.getLsbD_and]
    cases e : sel.getLsbD b with
    | false => simp
    | true => simp [eq_false_of_ne_true fun hp : p.getLsbD b = true => none ⟨b, hb, e, hp⟩]
  · rintro ⟨b, -, hs, hp⟩ zero
    have : (p &&& sel).getLsbD b = true := by rw [BitVec.getLsbD_and, hp, hs]; rfl
    rw [zero] at this
    simp at this

/-- The condition of KEYCNT, button by button (R499). -/
theorem keyCondition_iff (keycnt : Half) (p : BitVec 10) :
    keyCondition keycnt p = true ↔ if keycnt.getLsbD 15 then (∀ b < 10, keycnt.getLsbD b = true → p.getLsbD b = true)
      else (∃ b < 10, keycnt.getLsbD b = true ∧ p.getLsbD b = true) := by
  have sel : ∀ b < 10, (keycnt.extractLsb' 0 10).getLsbD b = keycnt.getLsbD b := fun b hb => by simp [hb]
  unfold keyCondition
  cases keycnt.getLsbD 15
  · simp only [Bool.false_eq_true, if_false, bne_iff_ne]
    rw [and_ne_zero_iff]
    exact exists_congr fun b => and_congr_right fun hb => by rw [sel b hb]
  · simp only [if_true, beq_iff_eq]
    rw [and_eq_right_iff]
    exact forall_congr' fun b => imp_congr_right fun hb => by rw [sel b hb]

/-- Settles O60: a sample that differs is a key change, whose condition is `keyCondition_iff`. -/
theorem keyInterruptCondition : Obligations.KeyInterruptCondition := by
  intro s k rest input t selected holds
  by_cases same : k = s.keyState
  · have e : t = { s with keyInput := rest } := by
      simp only [t, State.sampleKeys, input]
      exact if_pos same
    rw [e]
    exact ⟨same.symm, rfl, fun _ => rfl, fun ne => absurd same ne, fun ne => absurd same ne, rfl, rfl, rfl, rfl⟩
  · have e : t = ({ s with keyInput := rest, keyState := k } : State).requestIf (s.keycnt.getLsbD 14 && keyCondition s.keycnt k) 12 := by
      simp only [t, State.sampleKeys, input]
      exact if_neg same
    have condition : keyCondition s.keycnt k = true ↔ holds := keyCondition_iff s.keycnt k
    obtain ⟨i, h, frame⟩ := State.requestIf_frame { s with keyInput := rest, keyState := k }
      (s.keycnt.getLsbD 14 && keyCondition s.keycnt k) 12
    refine ⟨by rw [e, frame], by rw [e, frame], fun eq => absurd eq same, fun _ on yes => ?_, fun _ no => ?_, ?_⟩
    · rw [e, on, condition.2 yes]
      simp [State.requestIf, State.request_iflag]
    · have quiet : (s.keycnt.getLsbD 14 && keyCondition s.keycnt k) = false := by
        rcases no with off | fails
        · rw [off, Bool.false_and]
        · rw [eq_false_of_ne_true fun c => fails (condition.1 c), Bool.and_false]
      rw [e, quiet]
      rfl
    · rw [e, frame]
      exact ⟨rfl, rfl, rfl, rfl⟩

end Sys2Proof.Machine

/-! ## IRQ entry, the halted CPU and the return (R179, R425 to R428, R452) -/

namespace Sys2Proof.Machine

/-- An awake CPU that takes an IRQ enters it, to return to the next instruction (R150, R426). -/
theorem State.cpuStep_irqEntry {s : State} (awake : s.halted = false) (taken : s.irqTaken = true) :
    s.cpuStep = .next (s.irqEntry, .irqEntry) ∧ Entered s s.irqEntry .irq (s.nextExecAddr + 4) :=
  ⟨by simp [cpuStep, awake, taken], (OpFrame.refl s).entered_takeException rfl .irq _⟩

/-- An awake CPU with no IRQ to take refills an invalid pipeline (R150). -/
theorem State.cpuStep_refill {s : State} (awake : s.halted = false) (quiet : s.irqTaken = false) (invalid : s.pipeValid = false) :
    s.cpuStep = .next (s.refill, .refill) := by
  simp [cpuStep, awake, quiet, invalid]

/-- Settles O39: the entry masks IRQs and invalidates the pipeline, so the next step is the refill. -/
theorem irqEntrySavesAndVectors : Obligations.IrqEntrySavesAndVectors := by
  intro s awake taken
  obtain ⟨run, entered⟩ := State.cpuStep_irqEntry awake taken
  have masked : s.irqEntry.irqTaken = false := by simp [State.irqTaken, entered.status]
  exact ⟨s.irqEntry, run, entered, entered.status, Option.some.inj entered.saved, entered.r15, rfl,
    State.cpuStep_refill (entered.devices.halted.trans awake) masked entered.invalid⟩

/-- Settles O40: the device phases leave the CPU alone, so what they find when they release it is the CPU that halted. -/
theorem haltedCpuWaits : Obligations.HaltedCpuWaits := by
  intro s halted
  have waits : s.cpuStep = .next (s, .halted) := if_pos halted
  refine ⟨waits, fun noKey => ?_, fun c => ?_⟩
  · have sampled : s.sampleKeys = s := by rw [State.sampleKeys, noKey]
    rw [step, State.systemStep, sampled, waits]
    rfl
  · intro t
    have same : SameCpu s t := SameCpu.devices s c
    have next : t.nextExecAddr = s.nextExecAddr := by
      rw [State.nextExecAddr, State.nextExecAddr, State.iszWord, State.iszWord, same.pipeValid, same.r15, same.cpsr]
    refine ⟨same.gpr, same.cpsr, ⟨same.fiq, same.irq, same.svc, same.abt, same.und⟩, next, ?_, ?_, ?_⟩
    · rw [State.current, State.current, same.cpsr, same.pipeE]
    · intro awake taken
      obtain ⟨run, entered⟩ := State.cpuStep_irqEntry awake taken
      exact ⟨_, run, next ▸ entered⟩
    · intro awake quiet
      split
      · next valid => exact State.cpuStep_execute awake quiet (same.pipeValid.trans valid)
      · next invalid =>
        exact State.cpuStep_refill awake quiet (same.pipeValid.trans (eq_false_of_ne_true invalid))

/-- Settles O41: the return is a subtraction with R15 as destination and S = 1, which restores the SPSR of irq mode. -/
theorem irqReturnResumes : Obligations.IrqReturnResumes := by
  intro s h mode spsr link
  have bank : h.bank = .irq := by rw [State.bank, mode]; rfl
  have target : (sumSub (h.readReg 14) (h.operand2 (.imm 0 4)).1 h.cpsr.c).value = s.nextExecAddr := by
    refine (addWithCarry_not_true_value _ _).trans ?_
    rw [State.readReg, bank, link]
    exact BitVec.add_sub_cancel _ _
  obtain ⟨t, run, cpsr, branched, frame⟩ := execArm_aluArith_pc (s := h) (c := .al) rfl sumSub true 14 (.imm 0 4) target
  have status : t.cpsr = s.cpsr := by rw [cpsr, bank, if_pos rfl, ← spsr]; rfl
  exact ⟨t, run, status, status ▸ branched.r15, branched.invalid, frame, branched.save⟩

/-- The sixteen condition codes. -/
theorem condCode_cases : ∀ code : BitVec 4, code = 0 ∨ code = 1 ∨ code = 2 ∨ code = 3 ∨ code = 4 ∨ code = 5 ∨ code = 6 ∨ code = 7 ∨
    code = 8 ∨ code = 9 ∨ code = 10 ∨ code = 11 ∨ code = 12 ∨ code = 13 ∨ code = 14 ∨ code = 15 := by decide

/-- Settles O7: the predicate of each code, by its definition. -/
theorem conditionTable : Obligations.ConditionTable := by
  intro p code
  rcases condCode_cases code with rfl | rfl | rfl | rfl | rfl | rfl | rfl | rfl | rfl | rfl | rfl | rfl | rfl | rfl | rfl | rfl <;>
    simp [Cond.ofCode, condPassed]

end Sys2Proof.Machine

/-! ## The diagnostic stream only grows (R12, R45) -/

namespace Sys2Proof.Machine

namespace State

theorem ioWriteByte_diags (s : State) (o : Nat) (b : Byte) : s.diags ⊆ (s.ioWriteByte o b).diags := by
  unfold ioWriteByte
  split
  · next r k _ =>
    cases r with
    | dmaCntH n =>
      rw [ioWriteReg, writeDmaCntH_eq]
      show s.diags ⊆ if _ then _ else _
      split
      · exact List.subset_cons_self _ _
      · exact List.Subset.refl _
    | haltcnt =>
      simp only [ioWriteReg, writeHaltcnt]
      split
      · exact List.subset_cons_self _ _
      · simp
    | tmCntH n =>
      simp only [ioWriteReg, writeTmCntH]
      split <;> exact List.Subset.refl _
    | ime =>
      simp only [ioWriteReg]
      split <;> exact List.Subset.refl _
    | ie => simp [ioWriteReg]
    | _ => exact List.Subset.refl _
  · exact List.Subset.refl _

theorem writeBytes_diags (k : Nat) : ∀ (s : State) (a v : Word), s.diags ⊆ (s.writeBytes a v k).diags := by
  induction k with
  | zero => exact fun _ _ _ => List.Subset.refl _
  | succ k ih =>
    intro s a v
    have one : s.diags ⊆ (s.busWriteByte a (v.extractLsb' 0 8)).diags := by
      unfold busWriteByte
      split
      · exact ioWriteByte_diags s _ _
      · split <;> exact List.Subset.refl _
      all_goals exact List.Subset.refl _
    exact List.Subset.trans one (ih _ _ _)

theorem memWrite_diags (s : State) (a : Word) (n : Nat) (v : Word) : s.diags ⊆ (s.memWrite a n v).diags := by
  unfold memWrite busWrite
  refine List.Subset.trans ?_ (writeBytes_diags n _ _ v)
  (repeat' split) <;> simp

theorem memRead_diags_subset (s : State) (a : Word) (n : Nat) : s.diags ⊆ (s.memRead a n).2.diags := by
  rw [memRead_diags]
  split
  · exact List.subset_cons_self _ _
  · exact List.Subset.refl _

theorem noteIllegalMode_diags (s : State) : s.diags ⊆ s.noteIllegalMode.diags := by
  unfold noteIllegalMode
  split
  · exact List.Subset.refl _
  · exact List.subset_cons_self _ _

end State

/-- An operation takes no diagnostic away. -/
theorem CpuOp.diags {s t : State} (h : CpuOp s t) : s.diags ⊆ t.diags := by
  cases h with
  | begin | branchTo | setFlags | setT => exact List.Subset.refl _
  | emit => exact List.subset_cons_self _ _
  | writeReg | writeUser => simp [State.writeUser]
  | memRead a n => exact s.memRead_diags_subset a n
  | memWrite a n v => exact s.memWrite_diags a n v
  | restoreFromSpsr =>
    unfold State.restoreFromSpsr
    split
    · next p _ => exact State.noteIllegalMode_diags (s.setCpsr p)
    · exact List.subset_cons_self _ _
  | msrCpsr mask v =>
    have written : ∀ u : State, s.diags ⊆ u.diags →
        s.diags ⊆ (if mask.getLsbD 0 && privileged s.cpsr.mode then u.noteIllegalMode else u).diags := by
      intro u hu
      split
      · exact List.Subset.trans hu u.noteIllegalMode_diags
      · exact hu
    refine written _ ?_
    split
    · exact List.Subset.refl _
    · exact List.subset_cons_self _ _
  | msrSpsr mask v =>
    unfold State.msrSpsr
    split
    · simp
    · exact List.subset_cons_self _ _
  | finish oldT =>
    unfold State.finish
    split
    · exact List.Subset.refl _
    · split
      · exact State.memRead_diags_subset s _ _
      · exact List.Subset.refl _

theorem CpuOps.diags {s t : State} (h : CpuOps s t) : s.diags ⊆ t.diags := by
  induction h with
  | refl => exact List.Subset.refl _
  | tail _ op ih => exact List.Subset.trans ih op.diags

/-- A diagnostic of the executing instruction is still there after whatever follows it. -/
theorem CpuOps.noted {s t : State} {k : DiagKind} (h : CpuOps (s.emitHere k) t) : ⟨k, s.pipeE⟩ ∈ t.diags :=
  h.diags List.mem_cons_self

/-! ## Undefined and coprocessor words (R304 to R309, R391) -/

/-- The end of a step whose operation is a diagnostic of its word. -/
theorem OpFrame.finishNoted {s x : State} (h : OpFrame s x [] none) (hc : x.cpsr = s.cpsr) (k : DiagKind) :
    let t := (x.emitHere k).finish s.cpsr.t
    ⟨k, s.pipeE⟩ ∈ t.diags ∧ t.cpsr = s.cpsr ∧ Frame s t [] ∧ Advanced s t := by
  obtain ⟨frame, advanced, cpsr, -⟩ := (h.emitHere k).finish fun _ => congrArg Psr.t hc
  exact ⟨h.slotE ▸ CpuOps.noted (.single (.finish _ _)), cpsr.trans hc, frame, advanced⟩

/-- Settles O28: in both states the operation is the diagnostic alone. -/
theorem undefinedAndCoprocessorAdvance : Obligations.UndefinedAndCoprocessorAdvance := by
  intro s c raw p u n w x1 x2 x3 x4 x5 off o3 cp raw12 raw11
  have thumb := (OpFrame.start s).finishNoted rfl .undefinedEncoding
  refine ⟨fun pass => ?_, ?_⟩
  · have arm : ∀ k, ∃ t, execArm c (fun v => v.emitHere k) s = .next t ∧ ⟨k, s.pipeE⟩ ∈ t.diags ∧ t.cpsr = s.cpsr ∧ Frame s t [] ∧
        Advanced s t := fun k => ⟨_, execArm_pass pass, (OpFrame.arm s c).finishNoted (by simp) k⟩
    simp only [List.forall_mem_cons, List.not_mem_nil, false_implies, implies_true, and_true]
    exact ⟨arm _, arm _, arm _, arm _, arm _, arm _, arm _, arm _⟩
  · simp only [List.forall_mem_cons, List.not_mem_nil, false_implies, implies_true, and_true]
    exact ⟨⟨_, rfl, thumb⟩, ⟨_, rfl, thumb⟩, ⟨_, rfl, thumb⟩⟩

/-! ## Block transfers with an empty list (R284, R382 to R385) -/

/-- R15 alone is stored at `a`. -/
def StoresPc (s t : State) (a : Word) : Prop :=
  SameMemoryBut s t (alignTo a 4) 4 ∧
  (Memory.wf s.mem = true → (∀ k < 4, isRam (alignTo a 4 + BitVec.ofNat 32 k) = true) → HoldsBytes t (alignTo a 4) 4 s.r15) ∧
  ((∀ k < 4, ∀ o, region (alignTo a 4 + BitVec.ofNat 32 k) ≠ .io o) → SameDevices s t)

@[simp] theorem State.noteEmptyList_cpsr (s : State) : s.noteEmptyList.cpsr = s.cpsr := rfl

theorem OpFrame.noteEmptyList {s x : State} {ds : List Reg} {w : Option Word} {data : List Config.SaveEvent}
    (h : OpFrame s x ds w data) : OpFrame s x.noteEmptyList ds w data := h.emitHere _

section EmptyList

variable {s u : State} (begun : OpFrame s u [] none) (hc : u.cpsr = s.cpsr)
include begun hc

/-- The end of a step that stores R15 and then writes the base. -/
theorem OpFrame.finishEmptyStore (a final : Word) (w : Bool) (r : Reg) :
    let m := u.noteEmptyList.memWrite a 4 u.r15
    let t := (if w then m.writeReg r final else m).finish s.cpsr.t
    ⟨.unpredictable .emptyList, s.pipeE⟩ ∈ t.diags ∧ t.cpsr = s.cpsr ∧ (w = true → r ≠ 15 → t.readReg r = final) ∧ StoresPc s t a ∧
      SameRegs s t (if w then [r] else []) ∧ SameSpsrs s t ∧
      PcAfter s t (if w = true ∧ r = 15 then some final else none) (saveWrites (alignTo a 4) s.r15 4) := by
  intro m t
  have noted := begun.noteEmptyList
  have stored : Stored s m (alignTo a 4) 4 (saveWrites (alignTo a 4) s.r15 4) := by
    simpa [m, begun.r15] using Stored.memWrite noted hc a 4 u.r15
  have written := (OpFrame.refl m).writeBack rfl w r final
  rw [stored.pcWrite] at written
  obtain ⟨cpsr, memory, other, devices, regs, spsrs, pc, values⟩ := stored.finish written (by cases w <;> simp [m, hc])
  refine ⟨begun.slotE ▸ CpuOps.noted (((CpuOps.memWrite _ a 4 _).trans (CpuOps.writeBack m w r final)).tail (.finish _ _)), cpsr,
    fun hw hr => ?_, ⟨other, fun wf ram => ?_, devices⟩, regs, spsrs, pc⟩
  · rw [values r hr, if_pos hw]
    exact m.readReg_writeReg_same final hr
  · have holds : HoldsBytes m (alignTo a 4) 4 u.r15 := State.memWrite_same u.r15 (noted.mem ▸ wf) (by decide) ram
    exact (begun.r15 ▸ holds).of_same memory ram

/-- The end of a step that loads R15 after a write of the base, with the exception return when `sb` says so. -/
theorem OpFrame.finishEmptyLoad (bus : State.BusEq s u) (a final : Word) (sb w : Bool) (r : Reg) :
    let n := u.noteEmptyList
    let m := if w then (n.memRead a 4).2.writeReg r final else (n.memRead a 4).2
    let t := ((if sb then m.restoreFromSpsr else m).branchTo (n.memRead a 4).1).finish s.cpsr.t
    ⟨.unpredictable .emptyList, s.pipeE⟩ ∈ t.diags ∧ t.cpsr = (if sb then (s.spsrOf s.bank).getD s.cpsr else s.cpsr) ∧
      (w = true → r ≠ 15 → t.readBank s.bank r = final) ∧ Branched s t (s.memRead a 4).1 (saveReads (alignTo a 4) 4) ∧
      Frame s t (if w then [r] else []) := by
  intro n m t
  have read : OpFrame s (n.memRead a 4).2 [] none (saveReads (alignTo a 4) 4) := by
    simpa using begun.noteEmptyList.memRead a 4
  have bank : (n.memRead a 4).2.bank = s.bank := State.bank_congr (by simp [n, hc])
  have written := read.writeBack bank w r final
  have status : m.cpsr = s.cpsr := by cases w <;> simp [m, n, hc]
  have value : (n.memRead a 4).1 = (s.memRead a 4).1 := State.BusEq.memRead (by cases bus; constructor <;> assumption) a 4
  have diag : ⟨.unpredictable .emptyList, s.pipeE⟩ ∈ t.diags :=
    begun.slotE ▸ CpuOps.noted (((((CpuOps.memRead n a 4).trans (CpuOps.writeBack _ w r final)).trans
      (CpuOps.either (.single (.restoreFromSpsr m)) .refl)).trans (CpuOps.branchTo _ _)).tail (.finish _ _))
  have loaded : ∀ x, OpFrame s x (if w then [r] else []) (if w = true ∧ r = 15 then some final else none) (saveReads (alignTo a 4) 4) →
      x.gpr = m.gpr → let t := (x.branchTo (n.memRead a 4).1).finish s.cpsr.t
      t.cpsr = x.cpsr ∧ (w = true → r ≠ 15 → t.readBank s.bank r = final) ∧
        Branched s t (s.memRead a 4).1 (saveReads (alignTo a 4) 4) ∧ Frame s t (if w then [r] else []) := by
    intro x hx gpr
    obtain ⟨frame, branched, cpsr, -⟩ := (hx.branchTo (n.memRead a 4).1).finish (by simp)
    refine ⟨cpsr, fun hw hr => ?_, value ▸ branched, frame⟩
    have kept := ((x.branchTo (n.memRead a 4).1).finish_keeps s.cpsr.t).2.2.2
    rw [State.readBank_congr_of_ne (kept.trans gpr) s.bank hr]
    simp only [m, hw, if_true]
    rw [← bank]
    exact State.readBank_writeBank_same _ _ _ hr
  refine ⟨diag, ?_⟩
  cases sb with
  | false =>
    obtain ⟨cpsr, effect⟩ := loaded m written rfl
    exact ⟨cpsr.trans status, effect⟩
  | true =>
    obtain ⟨op, restored⟩ := written.restoreFromSpsr status
    obtain ⟨cpsr, effect⟩ := loaded m.restoreFromSpsr op (by unfold State.restoreFromSpsr; split <;> simp)
    exact ⟨cpsr.trans restored, effect⟩

end EmptyList

/-- A low register is not R15. -/
theorem low_ne_pc (r : LowReg) : low r ≠ 15 :=
  (by decide : ∀ r : LowReg, low r ≠ 15) r

/-- A register read through the bank of an unchanged mode. -/
theorem State.readReg_of_readBank {s t : State} (hc : t.cpsr = s.cpsr) {r : Reg} {v : Word} (h : t.readBank s.bank r = v) :
    t.readReg r = v := by
  rwa [readReg, bank_congr hc]

/-- PUSH and STMIA of an empty list: a store of R15 at `a`, and the base moved to `final`. -/
theorem execThumb_emptyStore {s : State} {op : State → State} (a final : Word) {r : Reg} (hr : r ≠ 15)
    (hop : op s.begin = (s.begin.noteEmptyList.memWrite a 4 s.begin.r15).writeReg r final) :
    ∃ t, execThumb op s = .next t ∧ ⟨.unpredictable .emptyList, s.pipeE⟩ ∈ t.diags ∧ t.cpsr = s.cpsr ∧ t.readReg r = final ∧
      StoresPc s t a ∧ SameRegs s t [r] ∧ SameSpsrs s t ∧ Advanced s t (saveWrites (alignTo a 4) s.r15 4) := by
  obtain ⟨diag, cpsr, base, stores, regs, spsrs, pc⟩ := (OpFrame.start s).finishEmptyStore rfl a final true r
  rw [if_neg (fun h : true = true ∧ r = 15 => hr h.2)] at pc
  exact ⟨_, rfl, by rw [hop]; exact ⟨diag, cpsr, base rfl hr, stores, regs, spsrs, pc⟩⟩

/-- POP and LDMIA of an empty list: a load of R15 from the base, which moves up. -/
theorem execThumb_loadPcAlone (s : State) {r : Reg} (hr : r ≠ 15) :
    ∃ t, execThumb (fun u => u.loadPcAlone r) s = .next t ∧ ⟨.unpredictable .emptyList, s.pipeE⟩ ∈ t.diags ∧ t.cpsr = s.cpsr ∧
      t.readReg r = s.readReg r + 0x40 ∧ Branched s t (s.memRead (s.readReg r) 4).1 (saveReads (alignTo (s.readReg r) 4) 4) ∧
      Frame s t [r] := by
  obtain ⟨diag, cpsr, base, effect⟩ := (OpFrame.start s).finishEmptyLoad rfl (State.busEq_begin s) (s.readReg r)
    (s.readReg r + 0x40) false true r
  exact ⟨_, rfl, diag, cpsr, State.readReg_of_readBank cpsr (base rfl hr), effect⟩

/-- Settles O26: the two ends of a step with an empty list, at the addresses of the six forms. -/
theorem emptyListTransfersPc : Obligations.EmptyListTransfersPc := by
  intro s c p u sb w rn rb e base start final stores
  refine ⟨fun pass => ?ldm, fun pass => ?stm, ?push, ?pop, ?stmia, ?ldmia⟩
  case ldm =>
    obtain ⟨diag, cpsr, moved, branched, frame⟩ := (OpFrame.arm s c).finishEmptyLoad (by simp) (State.busEq_noteCond s c) start final
      sb w rn
    refine ⟨_, (execArm_pass (op := fun v => if (0 : BitVec 16) = 0 then v.ldmEmpty p u sb w rn else _) pass).trans ?_, diag, cpsr,
      moved, branched, frame⟩
    simp [State.ldmEmpty, start, final, base]
  case stm =>
    obtain ⟨diag, cpsr, moved, stored, effect⟩ := (OpFrame.arm s c).finishEmptyStore (by simp) start final w rn
    refine ⟨_, (execArm_pass (op := fun v => if (0 : BitVec 16) = 0 then v.stmEmpty p u w rn else _) pass).trans ?_, diag, cpsr,
      moved, stored, effect⟩
    simp [State.stmEmpty, start, final, base]
  case push => exact execThumb_emptyStore (op := fun v => v.pushEmpty) (s.readReg 13 - 0x40) (s.readReg 13 - 0x40) (by decide) rfl
  case pop => exact execThumb_loadPcAlone s (r := 13) (by decide)
  case stmia =>
    exact execThumb_emptyStore (op := fun v => v.stmiaEmpty (low rb)) (s.readReg (low rb)) (s.readReg (low rb) + 0x40)
      (low_ne_pc rb) rfl
  case ldmia => exact execThumb_loadPcAlone s (low_ne_pc rb)

end Sys2Proof.Machine

/-! ## THUMB results and flags (R310 to R337, R339) -/

namespace Sys2Proof.Machine

section ThumbAlu

variable (s : State) (rd : LowReg)

/-- A THUMB instruction whose operation is a logical result, computed before the write (R310). -/
theorem execThumb_tLogical (f : State → Word × Option Bool) {r : Word × Option Bool} (value : f s.begin = r) :
    ∃ t, execThumb (fun u => u.tLogical rd (f u)) s = .next t ∧ t.readReg (low rd) = r.1 ∧
      t.cpsr = { s.cpsr with n := r.1.msb, z := r.1 == 0, c := r.2.getD s.cpsr.c } ∧ Frame s t [low rd] ∧ Advanced s t := by
  subst value
  exact ⟨_, rfl, (OpFrame.start s).regResult rfl (low_ne_pc rd) _ (keepsControl_logical _ _)⟩

/-- A THUMB instruction whose operation is an arithmetic result (R310). -/
theorem execThumb_tArith (f : State → Sum) {r : Sum} (value : f s.begin = r) :
    ∃ t, execThumb (fun u => u.tArith rd (f u)) s = .next t ∧ t.readReg (low rd) = r.value ∧
      t.cpsr = { s.cpsr with n := r.value.msb, z := r.value == 0, c := r.carry, v := r.overflow } ∧ Frame s t [low rd] ∧
      Advanced s t := by
  subst value
  exact ⟨_, rfl, (OpFrame.start s).regResult rfl (low_ne_pc rd) _ (keepsControl_arith _)⟩

/-- A THUMB comparison by the adder. -/
theorem execThumb_arithFlags (f : State → Sum) {r : Sum} (value : f s.begin = r) :
    ∃ t, execThumb (fun u => u.updateFlags (arithFlags (f u))) s = .next t ∧
      t.cpsr = { s.cpsr with n := r.value.msb, z := r.value == 0, c := r.carry, v := r.overflow } ∧ Frame s t [] ∧
      Advanced s t := by
  subst value
  exact ⟨_, rfl, (OpFrame.start s).flagsOnly rfl (keepsControl_arith _)⟩

end ThumbAlu

/-- Settles O29: each is a logical result of the shifter, the amount an immediate or the low byte of a register. -/
theorem thumbShifts : Obligations.ThumbShifts := by
  intro s imm rs rd v d n m
  obtain ⟨lsl, lsr, asr, -⟩ := shiftImm_eq v imm s.cpsr.c
  have byRegister : ∀ ty, shiftBy ty d (shiftAmount v) = shiftBy ty d m := fun ty => by rw [shiftAmount_eq_mod]
  simp only [List.forall_mem_cons, List.not_mem_nil, false_implies, implies_true, and_true]
  refine ⟨?lslImm, ?lsrImm, ?asrImm, ?lsl, ?lsr, ?asr, ?ror⟩
  case lslImm => exact execThumb_tLogical s rd (fun u => shiftImm .lsl (u.readLow rs) imm u.cpsr.c) lsl
  case lsrImm => exact execThumb_tLogical s rd (fun u => shiftImm .lsr (u.readLow rs) imm u.cpsr.c) lsr
  case asrImm => exact execThumb_tLogical s rd (fun u => shiftImm .asr (u.readLow rs) imm u.cpsr.c) asr
  case lsl => exact execThumb_tLogical s rd (fun u => shiftBy .lsl (u.readLow rd) (shiftAmount (u.readLow rs))) (byRegister .lsl)
  case lsr => exact execThumb_tLogical s rd (fun u => shiftBy .lsr (u.readLow rd) (shiftAmount (u.readLow rs))) (byRegister .lsr)
  case asr => exact execThumb_tLogical s rd (fun u => shiftBy .asr (u.readLow rd) (shiftAmount (u.readLow rs))) (byRegister .asr)
  case ror => exact execThumb_tLogical s rd (fun u => shiftBy .ror (u.readLow rd) (shiftAmount (u.readLow rs))) (byRegister .ror)

/-- Settles O30: each is an arithmetic result of the adder. -/
theorem thumbSums : Obligations.ThumbSums := by
  intro s imm3 imm8 rn rs rd n v d i3 i8 c
  simp only [List.forall_mem_cons, List.not_mem_nil, false_implies, implies_true, and_true]
  refine ⟨?addReg, ?subReg, ?addImm3, ?subImm3, ?addImm8, ?subImm8, ?adc, ?sbc, ?neg⟩
  case addReg => exact execThumb_tArith s rd (fun u => sumAdd (u.readLow rs) (u.readLow rn) u.cpsr.c) rfl
  case subReg => exact execThumb_tArith s rd (fun u => sumSub (u.readLow rs) (u.readLow rn) u.cpsr.c) rfl
  case addImm3 => exact execThumb_tArith s rd (fun u => sumAdd (u.readLow rs) i3 u.cpsr.c) rfl
  case subImm3 => exact execThumb_tArith s rd (fun u => sumSub (u.readLow rs) i3 u.cpsr.c) rfl
  case addImm8 => exact execThumb_tArith s rd (fun u => sumAdd (u.readLow rd) i8 u.cpsr.c) rfl
  case subImm8 => exact execThumb_tArith s rd (fun u => sumSub (u.readLow rd) i8 u.cpsr.c) rfl
  case adc => exact execThumb_tArith s rd (fun u => sumAdc (u.readLow rd) (u.readLow rs) u.cpsr.c) rfl
  case sbc => exact execThumb_tArith s rd (fun u => sumSbc (u.readLow rd) (u.readLow rs) u.cpsr.c) rfl
  case neg => exact execThumb_tArith s rd (fun u => sumSub 0 (u.readLow rs) u.cpsr.c) rfl

/-- Settles O31: all but MUL are logical results with the carry unaffected, and MUL is a multiply result with flags. -/
theorem thumbLogicalResults : Obligations.ThumbLogicalResults := by
  intro s imm rs rd v d
  have logical : ∀ (f : State → Word), ∃ t, execThumb (fun u => u.tLogical rd (f u, none)) s = .next t ∧
      t.readReg (low rd) = f s.begin ∧ t.cpsr = { s.cpsr with n := (f s.begin).msb, z := f s.begin == 0 } ∧ Frame s t [low rd] ∧
      Advanced s t := fun f => execThumb_tLogical s rd (fun u => (f u, none)) rfl
  simp only [List.forall_mem_cons, List.not_mem_nil, false_implies, implies_true, and_true]
  refine ⟨?mov, ?and, ?eor, ?orr, ?bic, ?mvn, ?mul⟩
  case mov => exact logical fun _ => imm.setWidth 32
  case and => exact logical fun u => u.readLow rd &&& u.readLow rs
  case eor => exact logical fun u => u.readLow rd ^^^ u.readLow rs
  case orr => exact logical fun u => u.readLow rd ||| u.readLow rs
  case bic => exact logical fun u => u.readLow rd &&& ~~~(u.readLow rs)
  case mvn => exact logical fun u => ~~~(u.readLow rs)
  case mul => exact ⟨_, rfl, (OpFrame.start s).regResult rfl (low_ne_pc rd) (d * v) (keepsControl_mul _)⟩

/-- Settles O32: TST is a logical flag update with the carry unaffected, the others are arithmetic ones. -/
theorem thumbCompareFlags : Obligations.ThumbCompareFlags := by
  intro s imm rs rd hs hd v d
  refine ⟨⟨_, rfl, (OpFrame.start s).flagsOnly rfl (keepsControl_logical (d &&& v) none)⟩, ?_⟩
  simp only [List.forall_mem_cons, List.not_mem_nil, false_implies, implies_true, and_true]
  refine ⟨?cmpImm, ?cmp, ?cmn, ?cmpHi⟩
  case cmpImm => exact execThumb_arithFlags s (fun u => sumSub (u.readLow rd) (imm.setWidth 32) u.cpsr.c) rfl
  case cmp => exact execThumb_arithFlags s (fun u => sumSub (u.readLow rd) (u.readLow rs) u.cpsr.c) rfl
  case cmn => exact execThumb_arithFlags s (fun u => sumAdd (u.readLow rd) (u.readLow rs) u.cpsr.c) rfl
  case cmpHi => exact execThumb_arithFlags s (fun u => sumSub (u.readReg hd) (u.readReg hs) u.cpsr.c) rfl

/-! ## THUMB register sums and branches (R338, R340, R341, R378 to R381, R386 to R390) -/

/-- A word offset as a number (R134). -/
theorem scaled4_eq {n : Nat} (x : BitVec n) (hn : n ≤ 30) : scaled4 x = BitVec.ofNat 32 (4 * x.toNat) := by
  have := x.isLt
  have : 2 ^ n ≤ 2 ^ 30 := Nat.pow_le_pow_right (by decide) hn
  apply BitVec.eq_of_toNat_eq
  rw [scaled4, BitVec.toNat_shiftLeft, BitVec.toNat_setWidth, BitVec.toNat_ofNat, Nat.shiftLeft_eq]
  omega

/-- A THUMB instruction whose operation is a register write, R15 included (R153). -/
theorem execThumb_writeReg (s : State) (f : State → Word) (rd : Reg) {v : Word} (value : f s.begin = v) :
    ∃ t, execThumb (fun u => u.writeReg rd (f u)) s = .next t ∧ (rd ≠ 15 → t.readReg rd = v) ∧ t.cpsr = s.cpsr ∧ Frame s t [rd] ∧
      PcAfter s t (if rd = 15 then some v else none) := by
  subst value
  obtain ⟨frame, pc, cpsr, regs⟩ := ((OpFrame.start s).writeReg rfl rd (f s.begin)).finish fun _ => by simp
  exact ⟨_, rfl, fun hr => (regs rd hr).trans (State.readReg_writeReg_same _ _ hr), by simpa using cpsr, frame, pc⟩

/-- Settles O33: each is a register write. -/
theorem thumbRegisterSums : Obligations.ThumbRegisterSums := by
  intro s hs hd rd w8 s7 off off7
  have word : scaled4 w8 = off := scaled4_eq w8 (by decide)
  have word7 : scaled4 s7 = off7 := scaled4_eq s7 (by decide)
  simp only [List.forall_mem_cons, List.not_mem_nil, false_implies, implies_true, and_true]
  refine ⟨?addHi, ?movHi, ?addPc, ?addSp, ?addSpImm, ?subSpImm⟩
  case addHi => exact execThumb_writeReg s (fun u => u.readReg hd + u.readReg hs) hd rfl
  case movHi => exact execThumb_writeReg s (fun u => u.readReg hs) hd rfl
  case addPc => exact execThumb_writeReg s (fun u => u.pcBase + scaled4 w8) (low rd) (congrArg (s.pcBase + ·) word)
  case addSp => exact execThumb_writeReg s (fun u => u.readReg 13 + scaled4 w8) (low rd) (congrArg (s.readReg 13 + ·) word)
  case addSpImm => exact execThumb_writeReg s (fun u => u.readReg 13 + scaled4 s7) 13 (congrArg (s.readReg 13 + ·) word7)
  case subSpImm => exact execThumb_writeReg s (fun u => u.readReg 13 - scaled4 s7) 13 (congrArg (s.readReg 13 - ·) word7)

/-- A signed offset, scaled by a power of two, as an integer (R386, R388, R389). -/
theorem signExtend_shiftLeft {n : Nat} (off : BitVec n) {k : Nat} {m : Int} (power : BitVec.twoPow 32 k = BitVec.ofInt 32 m) :
    off.signExtend 32 <<< k = BitVec.ofInt 32 (m * off.toInt) := by
  rw [BitVec.shiftLeft_eq_mul_twoPow, power, BitVec.ofInt_mul, BitVec.mul_comm]
  rfl

/-- The target of a THUMB branch as an integer: the offset counts halfwords (R386, R388). -/
theorem State.thumbBranchTarget_eq (s : State) {n : Nat} (off : BitVec n) :
    s.thumbBranchTarget off = s.r15 + BitVec.ofInt 32 (2 * off.toInt) :=
  congrArg (s.r15 + ·) (signExtend_shiftLeft off rfl)

/-- The unsigned offset of the second half of BL (R390). -/
theorem offset11_shiftLeft (off : BitVec 11) : off.setWidth 32 <<< 1 = BitVec.ofNat 32 (2 * off.toNat) := by
  apply BitVec.eq_of_toNat_eq
  rw [BitVec.toNat_shiftLeft, BitVec.toNat_setWidth, BitVec.toNat_ofNat, Nat.shiftLeft_eq]
  have := off.isLt
  omega

/-- A THUMB instruction whose operation records the write `target` to R15 (R153). -/
theorem execThumb_branchTo {s x : State} {op : State → State} {ds : List Reg} {target : Word} (hx : OpFrame s x ds (some target))
    (hop : op s.begin = x) :
    ∃ t, execThumb op s = .next t ∧ t.cpsr = x.cpsr ∧ (∀ r, r ≠ 15 → t.readReg r = x.readReg r) ∧ Branched s t target ∧
      Frame s t ds := by
  subst hop
  obtain ⟨frame, branched, cpsr, regs⟩ := hx.finish (by simp)
  exact ⟨_, rfl, cpsr, regs, branched, frame⟩

/-- Settles O34: each branch records its target, BX after the exchange of T and the second half of BL before the link. -/
theorem thumbBranches : Obligations.ThumbBranches := by
  intro s c off8 off11 rs
  rw [← State.thumbBranchTarget_eq, ← State.thumbBranchTarget_eq, ← offset11_shiftLeft]
  have start := OpFrame.start s
  refine ⟨?bcond, ?b, ?bx, ?blPrefix, ?blSuffix⟩
  case bcond =>
    cases pass : condPassed s.cpsr c with
    | false =>
      have run : exec (.tBcond c off8) s = .next (s.begin.finish s.cpsr.t) := by
        show Host.Outcome.next (State.finish (if condPassed s.cpsr c = true then _ else _) _) = _
        rw [if_neg (by simp [pass])]
      obtain ⟨frame, advanced, cpsr, -⟩ := start.finish fun _ => rfl
      exact ⟨_, run, cpsr, frame, advanced⟩
    | true =>
      obtain ⟨t, run, cpsr, -, branched, frame⟩ := execThumb_branchTo (start.branchTo (s.thumbBranchTarget off8))
        (op := fun u => if condPassed u.cpsr c then u.branchTo (u.thumbBranchTarget off8) else u) (if_pos pass)
      exact ⟨t, run, cpsr, frame, branched⟩
  case b =>
    obtain ⟨t, run, cpsr, -, branched, frame⟩ := execThumb_branchTo (start.branchTo (s.thumbBranchTarget off11))
      (op := fun u => u.branchTo (u.thumbBranchTarget off11)) rfl
    exact ⟨t, run, cpsr, frame, branched⟩
  case bx =>
    obtain ⟨t, run, cpsr, -, branched, frame⟩ := execThumb_branchTo
      ((start.setCpsr { s.cpsr with t := (s.readReg rs).getLsbD 0 }).branchTo (s.readReg rs))
      (op := fun u => u.branchExchange (u.readReg rs)) rfl
    exact ⟨t, run, cpsr, branched, frame⟩
  case blPrefix =>
    obtain ⟨t, run, link, cpsr, frame, advanced⟩ := execThumb_writeReg s (fun u => u.r15 + (off11.signExtend 32 <<< 12)) 14
      (congrArg (s.r15 + ·) (signExtend_shiftLeft off11 (m := 4096) rfl))
    exact ⟨t, run, link (by decide), cpsr, frame, advanced⟩
  case blSuffix =>
    let target := s.readReg 14 + (off11.setWidth 32 <<< 1)
    obtain ⟨t, run, cpsr, regs, branched, frame⟩ := execThumb_branchTo
      ((start.branchTo target).writeReg_ne rfl (r := 14) (by decide) ((s.r15 - 2) ||| 1))
      (op := fun u => (u.branchTo (u.readReg 14 + (off11.setWidth 32 <<< 1))).writeReg 14 ((u.r15 - 2) ||| 1)) rfl
    exact ⟨t, run, (regs 14 (by decide)).trans (State.readReg_writeReg_same _ _ (by decide)), by simpa using cpsr, frame, branched⟩

end Sys2Proof.Machine

/-! ## PUSH, POP, STMIA and LDMIA (R382 to R385) -/

namespace Sys2Proof.Machine

/-! ### The low register list -/

/-- A list of low registers is a part of the eight in order. -/
theorem lowRegList_sublist (list : BitVec 8) : (lowRegList list).Sublist ((List.range 8).map fun i => BitVec.ofNat 4 i) :=
  List.filter_sublist.map _

theorem lowRegList_nodup (list : BitVec 8) : (lowRegList list).Nodup := (lowRegList_sublist list).nodup (by decide)

theorem lowRegList_length_le (list : BitVec 8) : (lowRegList list).length ≤ 8 := (lowRegList_sublist list).length_le

theorem lt_of_mem_lowRegList {list : BitVec 8} {r : Reg} (h : r ∈ lowRegList list) : r.toNat < 8 :=
  (by decide : ∀ r ∈ (List.range 8).map fun i => BitVec.ofNat 4 i, r.toNat < 8) r ((lowRegList_sublist list).subset h)

theorem ne_of_mem_lowRegList {list : BitVec 8} {r q : Reg} (h : r ∈ lowRegList list) (hq : 8 ≤ q.toNat) : r ≠ q := by
  have := lt_of_mem_lowRegList h
  rintro rfl
  omega

/-- A list with a register in it is not the empty one. -/
theorem not_empty_of_lowRegList {list : BitVec 8} {b : Bool} {r : Reg} (h : lowRegList list ++ (if b then [r] else []) ≠ []) :
    ¬ (list = 0 ∧ b = false) := by
  rintro ⟨rfl, rfl⟩
  exact h rfl

/-! ### Stores -/

/-- The values of STMIA by their places in the list: the first place is 0 (R384). -/
theorem State.stmiaValues_eq (s : State) (rb : Reg) (final : Word) (rs : List Reg) : ∀ k : Nat,
    s.stmiaValues rb final (k == 0) rs = (rs.zipIdx k).map fun x => if x.1 = rb ∧ x.2 ≠ 0 then final else s.readReg x.1 := by
  induction rs with
  | nil => exact fun _ => rfl
  | cons r rs ih =>
    intro k
    rw [stmiaValues, List.zipIdx_cons, List.map_cons, ← ih (k + 1)]
    simp

/-- A THUMB instruction whose operation stores a list of registers from `a` on and writes the base. -/
theorem execThumb_blockStore {s : State} {op : State → State} {rs : List Reg} (short : rs.length ≤ 9) (stored : Nat → Reg → Word)
    (a final : Word) {r : Reg} (hr : r ≠ 15)
    (hop : op s.begin = (s.begin.writeWords a (rs.zipIdx.map fun x => stored x.2 x.1)).writeReg r final) :
    let start := alignTo a 4
    let n := rs.length
    ∃ t, execThumb op s = .next t ∧ t.cpsr = s.cpsr ∧ t.readReg r = final ∧
      (Memory.wf s.mem = true → (∀ k < 4 * n, isRam (start + BitVec.ofNat 32 k) = true) →
        ∀ k (hk : k < n), HoldsBytes t (start + BitVec.ofNat 32 (4 * k)) 4 (stored k rs[k])) ∧
      SameMemoryBut s t start (4 * n) ∧
      ((∀ k < 4 * n, ∀ o, region (start + BitVec.ofNat 32 k) ≠ .io o) → SameDevices s t) ∧
      SameRegs s t [r] ∧ SameSpsrs s t ∧ Advanced s t (saveWords start (rs.zipIdx.map fun x => stored x.2 x.1)) := by
  intro start n
  let vs := rs.zipIdx.map fun x => stored x.2 x.1
  let m := s.begin.writeWords a vs
  have length : vs.length = n := by simp [vs, n]
  have stores : Stored s m start (4 * n) (saveWords start vs) := by
    simpa [length] using Stored.writeWords (OpFrame.start s) rfl a vs
  have written := (OpFrame.refl m).writeReg_ne rfl hr final
  rw [stores.pcWrite] at written
  obtain ⟨cpsr, memory, other, devices, regs, spsrs, advanced, values⟩ := stores.finish written (by simp [stores.mid.cpsr])
  have run : execThumb op s = .next ((m.writeReg r final).finish s.cpsr.t) := by rw [execThumb, hop]
  refine ⟨_, run, cpsr, (values r hr).trans (m.readReg_writeReg_same final hr), fun wf ram k hk => ?_, other, devices, regs, spsrs,
    advanced⟩
  have holds : HoldsBytes m _ 4 vs[k] := State.writeWords_same (s := s.begin) vs wf (by omega) (by rwa [length]) k (by omega)
  have value : vs[k] = stored k rs[k] := by simp [vs]
  rw [value] at holds
  refine holds.of_same memory fun j hj => ?_
  rw [BitVec.add_assoc, ← BitVec.ofNat_add]
  exact ram _ (by omega)

/-- Settles O37: PUSH stores what the registers read, STMIA what their places in the list say. -/
theorem thumbBlockStores : Obligations.ThumbBlockStores := by
  intro s lr list rb ps rs sp fin
  simp only [List.forall_mem_cons, List.not_mem_nil, false_implies, implies_true, and_true]
  have eight : rs.length ≤ 8 := lowRegList_length_le list
  refine ⟨fun nonempty => ?push, fun nonempty => ?stmia⟩
  case push =>
    have short : ps.length ≤ 9 := by
      cases lr <;> simp [ps, rs] at eight ⊢ <;> omega
    refine execThumb_blockStore (op := fun u => if list = 0 ∧ lr = false then u.pushEmpty else u.pushRegs (pushList lr list)) short
      (fun _ r => s.readReg r) sp sp (by decide) ?_
    have values : ps.map s.readReg = ps.zipIdx.map fun x => s.readReg x.1 := by
      calc
        ps.map s.readReg = (ps.zipIdx.map Prod.fst).map s.readReg := by rw [List.zipIdx_map_fst]
        _ = ps.zipIdx.map fun x => s.readReg x.1 := List.map_map
    rw [if_neg (not_empty_of_lowRegList nonempty), ← values]
    rfl
  case stmia =>
    refine execThumb_blockStore (op := fun u => if list = 0 then u.stmiaEmpty (low rb) else u.stmiaList (low rb) (lowRegList list))
      (by omega) (fun k r => if r = low rb ∧ k ≠ 0 then fin else s.readReg r) (s.readReg (low rb)) fin (low_ne_pc rb) ?_
    have values : s.begin.stmiaValues (low rb) fin true rs =
        rs.zipIdx.map fun x => if x.1 = low rb ∧ x.2 ≠ 0 then fin else s.readReg x.1 := s.begin.stmiaValues_eq (low rb) fin rs 0
    rw [if_neg fun h : list = 0 => nonempty (congrArg lowRegList h), ← values]
    rfl

/-! ### Loads -/

namespace OpFrame

variable {s x : State} {ds : List Reg} {w : Option Word} {data : List Config.SaveEvent}

/-- The words of a block, read from memory. -/
theorem readWords (h : OpFrame s x ds w data) (a : Word) (n : Nat) :
    OpFrame s (x.readWords a n).2 ds w (saveReads (alignTo a 4) (4 * n) ++ data) := by
  obtain ⟨regs, ⟨fiq, irq, svc, abt, und⟩, devices, mem, r15, slotE, slotD, slotF, valid, pcWrite, save⟩ := h
  exact ⟨fun b r hr hd => (State.readBank_congr_of_ne (by simp) b hr).trans (regs b r hr hd),
    by constructor <;> simpa, by cases devices; constructor <;> simpa, by simp [mem], by simp [r15], by simp [slotE], by simp [slotD],
    by simp [slotF], by simp [valid], by simp [pcWrite], save.trans (State.readWords_saveGrew n x a)⟩

/-- Registers loaded through the current bank; `writeRegs_pcWrite_of_mem` says what is recorded for R15. -/
theorem writeRegs (h : OpFrame s x ds w data) (rs : List Reg) (vs : List Word) :
    OpFrame s (x.writeRegs s.bank rs vs) (ds ++ rs) (x.writeRegs s.bank rs vs).pcWrite data := by
  obtain ⟨regs, ⟨fiq, irq, svc, abt, und⟩, devices, mem, r15, slotE, slotD, slotF, valid, -, save⟩ := h
  refine ⟨fun b r hr hd => ?_, by constructor <;> simpa, by cases devices; constructor <;> simpa, by simp [mem], by simp [r15],
    by simp [slotE], by simp [slotD], by simp [slotF], by simp [valid], rfl, save.congr (by simp)⟩
  rw [State.readBank_writeRegs_other s.bank b r rs x vs fun _ q hq => hd q (List.mem_append_right ds hq)]
  exact regs b r hr fun d hm => hd d (List.mem_append_left rs hm)

end OpFrame

namespace State

/-- A loaded register, by its name in the current bank. -/
theorem readReg_writeRegs_same (s : State) {rs : List Reg} (vs : List Word) (nodup : rs.Nodup) {q : Reg × Word} (hq : q ∈ rs.zip vs)
    (hr : q.1 ≠ 15) : (s.writeRegs s.bank rs vs).readReg q.1 = q.2 :=
  readReg_of_readBank (by simp) (readBank_writeRegs_same s.bank rs s vs nodup q hq hr)

/-- A register that is not loaded. -/
theorem readReg_writeRegs_other (s : State) {rs : List Reg} (vs : List Word) {r : Reg} (hr : r ≠ 15) (notin : r ∉ rs) :
    (s.writeRegs s.bank rs vs).readReg r = s.readReg r :=
  readReg_of_readBank (by simp) (readBank_writeRegs_other s.bank s.bank r rs s vs fun _ q hq h15 e =>
    notin ((physIndex_eq_iff s.bank r q hr h15).1 e ▸ hq))

end State

theorem popList_nodup (pc : Bool) (list : BitVec 8) : (popList pc list).Nodup := by
  cases pc with
  | false => simpa [popList] using lowRegList_nodup list
  | true => exact List.nodup_append.2 ⟨lowRegList_nodup list, by decide, fun r hr q hq =>
      ne_of_mem_lowRegList hr (List.mem_singleton.1 hq ▸ by decide)⟩

theorem sp_notin_popList (pc : Bool) (list : BitVec 8) : (13 : Reg) ∉ popList pc list := by
  intro h
  rcases List.mem_append.1 h with h | h
  · exact ne_of_mem_lowRegList h (by decide) rfl
  · cases pc <;> simp at h

theorem pc_notin_lowRegList (list : BitVec 8) : (15 : Reg) ∉ lowRegList list := fun h => ne_of_mem_lowRegList h (by decide) rfl

/-- Settles O38: the loads of POP come before the write of SP, which they leave alone; those of LDMIA come after the write of Rb. -/
theorem thumbBlockLoads : Obligations.ThumbBlockLoads := by
  intro s pc list rb ps rs sp base popped
  refine ⟨fun nonempty => ?pop, fun nonempty => ?ldmia⟩
  case pop =>
    let vs := (s.readWords sp ps.length).1
    let u := (s.begin.readWords sp ps.length).2
    let m := u.writeRegs s.bank ps vs
    let final := sp + BitVec.ofNat 32 (4 * ps.length)
    have words : (s.begin.readWords sp ps.length).1 = vs := State.BusEq.readWords ps.length (State.busEq_begin s) sp
    have run : exec (.tPop pc list) s = .next ((m.writeReg 13 final).finish s.cpsr.t) := by
      show execThumb (fun v => if list = 0 ∧ pc = false then v.loadPcAlone 13 else v.popRegs (popList pc list)) s = _
      rw [execThumb, if_neg (not_empty_of_lowRegList nonempty), State.popRegs]
      show Host.Outcome.next (((u.writeRegs s.bank ps (s.begin.readWords sp ps.length).1).writeReg 13 final).finish _) = _
      rw [words]
    have loaded : OpFrame s m ps m.pcWrite popped := by
      simpa using ((OpFrame.start s).readWords sp ps.length).writeRegs ps vs
    have bank : m.bank = s.bank := by simp [m, u, State.bank]
    obtain ⟨frame, after, cpsr, regs⟩ := (loaded.writeReg_ne bank (r := 13) (by decide) final).finish fun _ => by simp [m, u]
    refine ⟨_, run, by simpa [m, u] using cpsr, ?_, fun q hq hr => ?_, fun q hq h15 => ?_, fun noPc => ?_, frame⟩
    · exact (regs 13 (by decide)).trans (State.readReg_writeReg_same _ _ (by decide))
    · have h13 : q.1 ≠ 13 := fun h => sp_notin_popList pc list (h ▸ (List.of_mem_zip hq).1)
      rw [regs q.1 hr, State.readReg_writeReg_other _ _ h13]
      exact State.readReg_of_readBank (by simp [m, u]) (State.readBank_writeRegs_same s.bank ps u vs (popList_nodup pc list) q hq hr)
    · obtain ⟨r, v⟩ := q
      cases h15
      rwa [show m.pcWrite = some v from State.writeRegs_pcWrite_of_mem s.bank ps u vs (popList_nodup pc list) hq] at after
    · have notin : (15 : Reg) ∉ ps := by simpa [ps, noPc] using pc_notin_lowRegList list
      have quiet : m.pcWrite = none := (State.writeRegs_pcWrite_of_not_mem s.bank ps u vs notin).trans (by simp [u])
      rwa [quiet] at after
  case ldmia =>
    let vs := (s.readWords base rs.length).1
    let final := base + BitVec.ofNat 32 (4 * rs.length)
    let u := (s.begin.readWords base rs.length).2.writeReg (low rb) final
    let m := u.writeRegs s.bank rs vs
    have words : (s.begin.readWords base rs.length).1 = vs := State.BusEq.readWords rs.length (State.busEq_begin s) base
    have run : exec (.tLdmia rb list) s = .next (m.finish s.cpsr.t) := by
      show execThumb (fun v => if list = 0 then v.loadPcAlone (low rb) else v.ldmiaList (low rb) (lowRegList list)) s = _
      rw [execThumb, if_neg nonempty, State.ldmiaList]
      show Host.Outcome.next ((u.writeRegs s.bank rs (s.begin.readWords base rs.length).1).finish _) = _
      rw [words]
    have bank : u.bank = s.bank := by simp [u, State.bank]
    have read := (OpFrame.start s).readWords base rs.length
    have written := read.writeReg_ne (by simp [State.bank]) (low_ne_pc rb) final
    have quiet : m.pcWrite = none :=
      (State.writeRegs_pcWrite_of_not_mem s.bank rs u vs (pc_notin_lowRegList list)).trans written.pcWrite
    have loaded : OpFrame s m (low rb :: rs) none (saveReads (alignTo base 4) (4 * rs.length)) := by
      rw [← quiet]
      simpa using written.writeRegs rs vs
    obtain ⟨frame, advanced, cpsr, regs⟩ := loaded.finish fun _ => by simp [m, u]
    refine ⟨_, run, by simpa [m, u] using cpsr, fun notin => ?_, fun q hq => ?_, advanced, frame⟩
    · rw [regs _ (low_ne_pc rb)]
      have kept := u.readReg_writeRegs_other vs (low_ne_pc rb) notin
      rw [bank] at kept
      exact kept.trans (State.readReg_writeReg_same _ _ (low_ne_pc rb))
    · have hr : q.1 ≠ 15 := ne_of_mem_lowRegList (List.of_mem_zip hq).1 (by decide)
      have value := u.readReg_writeRegs_same vs (lowRegList_nodup list) hq hr
      rw [bank] at value
      exact (regs q.1 hr).trans value

end Sys2Proof.Machine

/-! ## Memory stays canonical (R69; log 3) -/

namespace Sys2Proof.Machine

/-- Bus writes keep the canonical form, and nothing else changes storage. -/
theorem StoresOnly.keeps_wf {s t : State} (h : StoresOnly s t) (wf : Memory.wf s.mem = true) : Memory.wf t.mem = true := by
  induction h with
  | keep hm _ => rwa [hm]
  | memWrite s a n v => exact State.memWrite_wf a n v wf
  | trans _ _ ih ih' => exact ih' (ih wf)

/-- Settles O44: a step changes storage by bus writes only, and a bus write keeps the canonical form. -/
theorem stepKeepsMemoryCanonical : Obligations.StepKeepsMemoryCanonical :=
  fun _ _ wf h => (StoresOnly.step h).keeps_wf wf

end Sys2Proof.Machine

/-! ## Single loads (R80 to R82, R250, R251, R260, R360) -/

namespace Sys2Proof.Machine

/-- At `ea` the load is a read of `n` bytes, whose value it gives through `f` (R80 to R82). -/
def LoadsAt (load : State → Word → Word × State) (ea : Word) (n : Nat) (f : Word → Word) : Prop :=
  ∀ u : State, load u ea = (f (u.memRead ea n).1, (u.memRead ea n).2)

namespace LoadsAt

theorem word (ea : Word) : LoadsAt State.loadWord ea 4 (rotateForWord ea) := fun _ => rfl

theorem byte (ea : Word) : LoadsAt State.loadByte ea 1 id := fun _ => rfl

theorem signedByte (ea : Word) : LoadsAt State.loadByteSigned ea 1 fun v => (v.setWidth 8).signExtend 32 := fun _ => rfl

theorem half (ea : Word) : LoadsAt State.loadHalf ea 2 fun v => if ea.getLsbD 0 then v.rotateRight 8 else v := fun _ => rfl

/-- An odd address loads the signed byte (R82). -/
theorem signedHalf (ea : Word) : LoadsAt State.loadHalfSigned ea (if ea.getLsbD 0 then 1 else 2)
    fun v => if ea.getLsbD 0 then (v.setWidth 8).signExtend 32 else (v.setWidth 16).signExtend 32 := by
  intro u
  unfold State.loadHalfSigned
  cases ea.getLsbD 0 <;> rfl

/-- The value of a signed halfword load, as the obligations write it: which access is made depends on the address (R82). -/
theorem signedHalf_value (s : State) (ea : Word) :
    (if ea.getLsbD 0 then ((s.memRead ea 1).1.setWidth 8).signExtend 32 else ((s.memRead ea 2).1.setWidth 16).signExtend 32) =
      if ea.getLsbD 0 then ((s.memRead ea (if ea.getLsbD 0 then 1 else 2)).1.setWidth 8).signExtend 32
      else ((s.memRead ea (if ea.getLsbD 0 then 1 else 2)).1.setWidth 16).signExtend 32 := by
  cases ea.getLsbD 0 <;> simp

end LoadsAt

/-- An ARM load whose condition passes: the read, the write-back, then the destination (R251). -/
theorem execArm_loadTransfer {s : State} {c : Cond} (pass : condPassed s.cpsr c = true) {load : State → Word → Word × State}
    (addr : State → Address) {ad : Address} (haddr : addr (s.begin.noteCond c) = ad) {n : Nat} {f : Word → Word}
    (loads : LoadsAt load ad.ea n f) (rn rd : Reg) {v : Word} (value : v = f (s.memRead ad.ea n).1) :
    ∃ t, execArm c (fun u => u.loadTransfer load (addr u) rn rd) s = .next t ∧ t.cpsr = s.cpsr ∧
      (rd ≠ 15 → t.readReg rd = v) ∧ (ad.wb = true → rn ≠ 15 → rn ≠ rd → t.readReg rn = ad.eaOff) ∧
      Frame s t (if ad.wb then [rd, rn] else [rd]) ∧
      PcAfter s t (if rd = 15 then some v else if ad.wb = true ∧ rn = 15 then some ad.eaOff else none)
        (saveReads (alignTo ad.ea n) n) := by
  let u := ((s.begin.noteCond c).memRead ad.ea n).2
  let m := if ad.wb then u.writeReg rn ad.eaOff else u
  have run : (s.begin.noteCond c).loadTransfer load (addr (s.begin.noteCond c)) rn rd = m.writeReg rd v := by
    simp [State.loadTransfer, haddr, loads (s.begin.noteCond c), value, m, u]
  have read : OpFrame s u [] none (saveReads (alignTo ad.ea n) n) := by simpa using (OpFrame.arm s c).memRead ad.ea n
  have based := read.writeBack (State.bank_congr (by simp [u])) ad.wb rn ad.eaOff
  have status : m.cpsr = s.cpsr := by cases h : ad.wb <;> simp [m, u, h]
  have written : OpFrame s (m.writeReg rd v) _ _ _ := based.writeReg (State.bank_congr status) rd v
  obtain ⟨frame, pc, cpsr, regs⟩ := written.finish fun _ => by simp [status]
  refine ⟨_, (execArm_pass pass).trans (by rw [run]), cpsr.trans (by simp [status]), fun hr => ?_, fun hw hr hne => ?_, ?_, pc⟩
  · exact (regs rd hr).trans (State.readReg_writeReg_same m v hr)
  · refine (regs rn hr).trans ((State.readReg_writeReg_other m v hne).trans ?_)
    rw [show m = u.writeReg rn ad.eaOff from if_pos hw]
    exact State.readReg_writeReg_same u ad.eaOff hr
  · cases h : ad.wb <;> simpa [h] using frame

/-- Settles O21: each load is the common one, at its address and with the value its primitive gives. -/
theorem armLoads : Obligations.ArmLoads := by
  intro s c p u w rn rd off hoff pass a at_ h word byte sbyte
  simp only [List.forall_mem_cons, List.not_mem_nil, false_implies, implies_true, and_true]
  have sdt {p u w : Bool} : (s.begin.noteCond c).sdtAddress p u w rn off = s.sdtAddress p u w rn off := by simp
  have hsdt : (s.begin.noteCond c).hsdtAddress p u w rn hoff = s.hsdtAddress p u w rn hoff := by simp
  refine ⟨?ldr, ?ldrb, ?ldrt, ?ldrbt, ?ldrh, ?ldrsb, ?ldrsh⟩
  case ldr => exact execArm_loadTransfer pass (fun x => x.sdtAddress p u w rn off) sdt (.word _) rn rd rfl
  case ldrb => exact execArm_loadTransfer pass (fun x => x.sdtAddress p u w rn off) sdt (.byte _) rn rd rfl
  case ldrt => exact execArm_loadTransfer pass (fun x => x.sdtAddress false u true rn off) sdt (.word _) rn rd rfl
  case ldrbt => exact execArm_loadTransfer pass (fun x => x.sdtAddress false u true rn off) sdt (.byte _) rn rd rfl
  case ldrh => exact execArm_loadTransfer pass (fun x => x.hsdtAddress p u w rn hoff) hsdt (.half _) rn rd rfl
  case ldrsb => exact execArm_loadTransfer pass (fun x => x.hsdtAddress p u w rn hoff) hsdt (.signedByte _) rn rd rfl
  case ldrsh =>
    exact execArm_loadTransfer pass (fun x => x.hsdtAddress p u w rn hoff) hsdt (.signedHalf _) rn rd (LoadsAt.signedHalf_value s _)

end Sys2Proof.Machine

/-! ## Single stores (R83, R252, R254, R255, R262) -/

namespace Sys2Proof.Machine

/-- The end of a step that stores the low `n` bytes of `v` at `a` and then writes the base where `w` says so. -/
theorem OpFrame.finishStore {s u : State} (begun : OpFrame s u [] none) (hc : u.cpsr = s.cpsr) (a : Word) {n : Nat} (hn : n ≤ 4)
    (v final : Word) (w : Bool) (r : Reg) :
    let ea := alignTo a n
    let m := u.memWrite a n v
    let t := (if w then m.writeReg r final else m).finish s.cpsr.t
    t.cpsr = s.cpsr ∧ SameMemoryBut s t ea n ∧
      (Memory.wf s.mem = true → (∀ k < n, isRam (ea + BitVec.ofNat 32 k) = true) → HoldsBytes t ea n v) ∧
      ((∀ k < n, ∀ o, region (ea + BitVec.ofNat 32 k) ≠ .io o) → SameDevices s t) ∧
      (w = true → r ≠ 15 → t.readReg r = final) ∧ SameRegs s t (if w then [r] else []) ∧ SameSpsrs s t ∧
      PcAfter s t (if w = true ∧ r = 15 then some final else none) (saveWrites ea v n) := by
  intro ea m t
  have stored : Stored s m ea n (saveWrites ea v n) := by simpa using Stored.memWrite begun hc a n v
  have written := (OpFrame.refl m).writeBack rfl w r final
  rw [stored.pcWrite] at written
  obtain ⟨cpsr, memory, other, devices, regs, spsrs, pc, values⟩ := stored.finish written (by cases w <;> simp [m, hc])
  refine ⟨cpsr, other, fun wf ram => ?_, devices, fun hw hr => ?_, regs, spsrs, pc⟩
  · exact (State.memWrite_same v (begun.mem ▸ wf) hn ram).of_same memory ram
  · rw [values r hr, if_pos hw]
    exact m.readReg_writeReg_same final hr

/-- An ARM store whose condition passes: the register is read, stored, and the base written back (R252). -/
theorem execArm_storeTransfer {s : State} {c : Cond} (pass : condPassed s.cpsr c = true) (addr : State → Address) {ad : Address}
    (haddr : addr (s.begin.noteCond c) = ad) {n : Nat} (hn : n ≤ 4) (rn rd : Reg) :
    let ea := alignTo ad.ea n
    ∃ t, execArm c (fun u => u.storeTransfer (fun x a v => x.memWrite a n v) (addr u) rn rd) s = .next t ∧ t.cpsr = s.cpsr ∧
      SameMemoryBut s t ea n ∧
      (Memory.wf s.mem = true → (∀ k < n, isRam (ea + BitVec.ofNat 32 k) = true) → HoldsBytes t ea n (s.readReg rd)) ∧
      ((∀ k < n, ∀ o, region (ea + BitVec.ofNat 32 k) ≠ .io o) → SameDevices s t) ∧
      (ad.wb = true → rn ≠ 15 → t.readReg rn = ad.eaOff) ∧ SameRegs s t (if ad.wb then [rn] else []) ∧ SameSpsrs s t ∧
      PcAfter s t (if ad.wb = true ∧ rn = 15 then some ad.eaOff else none) (saveWrites ea (s.readReg rd) n) := by
  intro ea
  refine ⟨_, (execArm_pass pass).trans ?_, (OpFrame.arm s c).finishStore (by simp) ad.ea hn (s.readReg rd) ad.eaOff ad.wb rn⟩
  simp [State.storeTransfer, haddr]

/-- Settles O22: each store is the common one, at its address and of its size. -/
theorem armStores : Obligations.ArmStores := by
  intro s c p u w rn rd off hoff pass
  simp only [List.forall_mem_cons, List.not_mem_nil, false_implies, implies_true, and_true]
  have sdt {p u w : Bool} : (s.begin.noteCond c).sdtAddress p u w rn off = s.sdtAddress p u w rn off := by simp
  refine ⟨?str, ?strb, ?strt, ?strbt, ?strh⟩
  case str => exact execArm_storeTransfer pass (fun x => x.sdtAddress p u w rn off) sdt (n := 4) (by decide) rn rd
  case strb => exact execArm_storeTransfer pass (fun x => x.sdtAddress p u w rn off) sdt (n := 1) (by decide) rn rd
  case strt => exact execArm_storeTransfer pass (fun x => x.sdtAddress false u true rn off) sdt (n := 4) (by decide) rn rd
  case strbt => exact execArm_storeTransfer pass (fun x => x.sdtAddress false u true rn off) sdt (n := 1) (by decide) rn rd
  case strh =>
    exact execArm_storeTransfer pass (fun x => x.hsdtAddress p u w rn hoff) (by simp) (n := 2) (by decide) rn rd

end Sys2Proof.Machine

/-! ## THUMB loads and stores (R360 to R377) -/

namespace Sys2Proof.Machine

/-- A halfword offset as a number (R134). -/
theorem scaled2_eq {n : Nat} (x : BitVec n) (hn : n ≤ 30) : scaled2 x = BitVec.ofNat 32 (2 * x.toNat) := by
  have := x.isLt
  have : 2 ^ n ≤ 2 ^ 30 := Nat.pow_le_pow_right (by decide) hn
  apply BitVec.eq_of_toNat_eq
  rw [scaled2, BitVec.toNat_shiftLeft, BitVec.toNat_setWidth, BitVec.toNat_ofNat, Nat.shiftLeft_eq]
  omega

/-! The addresses of the immediate forms, with the offset as a number (R370 to R377). -/

section Offsets

variable (a : Word) (imm : BitVec 5) (w8 : BitVec 8)

theorem add_scaled4_imm : a + scaled4 imm = a + BitVec.ofNat 32 (4 * imm.toNat) := by rw [scaled4_eq imm (by decide)]

theorem add_scaled2_imm : a + scaled2 imm = a + BitVec.ofNat 32 (2 * imm.toNat) := by rw [scaled2_eq imm (by decide)]

theorem add_byte_imm : a + imm.setWidth 32 = a + BitVec.ofNat 32 (1 * imm.toNat) := by rw [Nat.one_mul, BitVec.ofNat_toNat]

theorem add_scaled4_word8 : a + scaled4 w8 = a + BitVec.ofNat 32 (4 * w8.toNat) := by rw [scaled4_eq w8 (by decide)]

end Offsets

/-- A THUMB load: the read, then the destination, which is a low register (R360). -/
theorem execThumb_tLoad (s : State) {load : State → Word → Word × State} (addr : State → Word) {ea : Word}
    (haddr : addr s.begin = ea) {n : Nat} {f : Word → Word} (loads : LoadsAt load ea n f) (rd : LowReg) {v : Word}
    (value : v = f (s.memRead ea n).1) :
    ∃ t, execThumb (fun u => u.tLoad load (addr u) rd) s = .next t ∧ t.readReg (low rd) = v ∧ t.cpsr = s.cpsr ∧
      Frame s t [low rd] ∧ Advanced s t (saveReads (alignTo ea n) n) := by
  let u := (s.begin.memRead ea n).2
  have run : s.begin.tLoad load (addr s.begin) rd = u.writeReg (low rd) v := by
    simp [State.tLoad, haddr, loads s.begin, value, u]
  have read : OpFrame s u [] none (saveReads (alignTo ea n) n) := by simpa using (OpFrame.start s).memRead ea n
  have written := read.writeReg_ne (State.bank_congr (by simp [u])) (low_ne_pc rd) v
  obtain ⟨frame, advanced, cpsr, regs⟩ := written.finish fun _ => by simp [u]
  refine ⟨_, congrArg (fun x : State => Host.Outcome.next (x.finish s.cpsr.t)) run, ?_, cpsr.trans (by simp [u]), frame,
    advanced⟩
  exact (regs _ (low_ne_pc rd)).trans (State.readReg_writeReg_same u v (low_ne_pc rd))

/-- Settles O35: each load is the common one, at its address and with the value its primitive gives. -/
theorem thumbLoads : Obligations.ThumbLoads := by
  intro s ro rb rd imm w8 word byte sbyte half shalf r i off8 pc sp
  simp only [List.forall_mem_cons, List.not_mem_nil, false_implies, implies_true, and_true]
  refine ⟨?ldrPc, ?ldrReg, ?ldrbReg, ?ldrhReg, ?ldsbReg, ?ldshReg, ?ldrImm, ?ldrbImm, ?ldrhImm, ?ldrSp⟩
  case ldrPc => exact execThumb_tLoad s (fun u => u.pcBase + scaled4 w8) (add_scaled4_word8 _ w8) (.word _) rd rfl
  case ldrReg => exact execThumb_tLoad s (fun u => u.regAddress ro rb) rfl (.word _) rd rfl
  case ldrbReg => exact execThumb_tLoad s (fun u => u.regAddress ro rb) rfl (.byte _) rd rfl
  case ldrhReg => exact execThumb_tLoad s (fun u => u.regAddress ro rb) rfl (.half _) rd rfl
  case ldsbReg => exact execThumb_tLoad s (fun u => u.regAddress ro rb) rfl (.signedByte _) rd rfl
  case ldshReg =>
    exact execThumb_tLoad s (fun u => u.regAddress ro rb) rfl (.signedHalf _) rd (LoadsAt.signedHalf_value s _)
  case ldrImm => exact execThumb_tLoad s (fun u => u.readLow rb + scaled4 imm) (add_scaled4_imm _ imm) (.word _) rd rfl
  case ldrbImm => exact execThumb_tLoad s (fun u => u.readLow rb + imm.setWidth 32) (add_byte_imm _ imm) (.byte _) rd rfl
  case ldrhImm => exact execThumb_tLoad s (fun u => u.readLow rb + scaled2 imm) (add_scaled2_imm _ imm) (.half _) rd rfl
  case ldrSp => exact execThumb_tLoad s (fun u => u.readReg 13 + scaled4 w8) (add_scaled4_word8 _ w8) (.word _) rd rfl

/-- A THUMB store from a low register (R360). -/
theorem execThumb_tStore (s : State) (addr : State → Word) {a : Word} (haddr : addr s.begin = a) {n : Nat} (hn : n ≤ 4)
    (rd : LowReg) :
    let ea := alignTo a n
    let v := s.readReg (low rd)
    ∃ t, execThumb (fun u => u.tStore (fun x a v => x.memWrite a n v) (addr u) rd) s = .next t ∧ t.cpsr = s.cpsr ∧
      SameMemoryBut s t ea n ∧
      (Memory.wf s.mem = true → (∀ k < n, isRam (ea + BitVec.ofNat 32 k) = true) → HoldsBytes t ea n v) ∧
      ((∀ k < n, ∀ o, region (ea + BitVec.ofNat 32 k) ≠ .io o) → SameDevices s t) ∧ SameRegs s t [] ∧ SameSpsrs s t ∧
      Advanced s t (saveWrites ea v n) := by
  subst haddr
  intro ea v
  obtain ⟨cpsr, other, holds, devices, -, regs, spsrs, advanced⟩ :=
    (OpFrame.start s).finishStore rfl (addr s.begin) hn v v false (low rd)
  exact ⟨_, rfl, cpsr, other, holds, devices, regs, spsrs, advanced⟩

/-- Settles O36: each store is the common one, at its address and of its size. -/
theorem thumbStores : Obligations.ThumbStores := by
  intro s ro rb rd imm w8 r i
  simp only [List.forall_mem_cons, List.not_mem_nil, false_implies, implies_true, and_true]
  refine ⟨?strReg, ?strbReg, ?strhReg, ?strImm, ?strbImm, ?strhImm, ?strSp⟩
  case strReg => exact execThumb_tStore s (fun u => u.regAddress ro rb) rfl (n := 4) (by decide) rd
  case strbReg => exact execThumb_tStore s (fun u => u.regAddress ro rb) rfl (n := 1) (by decide) rd
  case strhReg => exact execThumb_tStore s (fun u => u.regAddress ro rb) rfl (n := 2) (by decide) rd
  case strImm => exact execThumb_tStore s (fun u => u.readLow rb + scaled4 imm) (add_scaled4_imm _ imm) (n := 4) (by decide) rd
  case strbImm => exact execThumb_tStore s (fun u => u.readLow rb + imm.setWidth 32) (add_byte_imm _ imm) (n := 1) (by decide) rd
  case strhImm => exact execThumb_tStore s (fun u => u.readLow rb + scaled2 imm) (add_scaled2_imm _ imm) (n := 2) (by decide) rd
  case strSp => exact execThumb_tStore s (fun u => u.readReg 13 + scaled4 w8) (add_scaled4_word8 _ w8) (n := 4) (by decide) rd

end Sys2Proof.Machine

/-! ## Addresses of transfers (R84, R250, R260, R280) -/

namespace Sys2Proof.Machine

/-- The address arithmetic of single transfers (R250, R260). -/
theorem indexed_spec (p u w : Bool) (base off : Word) :
    let ad := indexed p u w base off
    ad.eaOff = (if u then base + off else base - off) ∧ (p = true → ad.ea = ad.eaOff) ∧ (p = false → ad.ea = base) ∧
      (ad.wb = true ↔ p = false ∨ w = true) := by
  cases p <;> simp [indexed]

/-- A register list is in ascending order (R120). -/
theorem regList_ascending (list : BitVec 16) : (regList list).Pairwise fun a b => a.toNat < b.toNat := by
  refine List.Pairwise.map _ ?_ (List.Pairwise.filter _ (List.pairwise_lt_range (n := 16) |>.imp_of_mem fun ha hb hlt => ?_))
    (R := fun i j : Nat => j < 16 ∧ i < j)
  · rintro i j ⟨hj, hlt⟩
    simpa [Nat.mod_eq_of_lt hj, Nat.mod_eq_of_lt (Nat.lt_trans hlt hj)] using hlt
  · exact ⟨List.mem_range.1 hb, hlt⟩

namespace State

/-- A read after `m` bytes of a block, from the state the first word left or from the state before it. -/
theorem memRead_withSave_after (s : State) (a b : Word) (n m : Nat) :
    (((s.memRead a 4).2.withSave (s.memRead a 4).2 (saveReads (alignTo (a + 4) 4) m)).memRead b n).1 =
      ((s.withSave s (saveReads (alignTo a 4) (4 + m))).memRead b n).1 := by
  refine BusEq.memRead ?_ b n
  have save : (s.memRead a 4).2.save = s.save.map (saveReads (alignTo a 4) 4 ++ ·) := memRead_saveGrew s a 4
  have later : saveReads (alignTo a 4) (4 + m) = saveReads (alignTo (a + 4) 4) m ++ saveReads (alignTo a 4) 4 := by
    rw [saveReads_add, alignTo_add_four]
    rfl
  constructor <;> simp [withSave, save, later, Function.comp_def]

/-- The words of a block are the single reads at ascending addresses, each after those before it (R84, R280). -/
theorem readWords_eq (n : Nat) : ∀ (s : State) (a : Word),
    (s.readWords a n).1 = (List.range n).map fun k =>
      ((s.withSave s (saveReads (alignTo a 4) (4 * k))).memRead (a + BitVec.ofNat 32 (4 * k)) 4).1 := by
  induction n with
  | zero => exact fun _ _ => rfl
  | succ n ih =>
    intro s a
    show (s.memRead a 4).1 :: ((s.memRead a 4).2.readWords (a + 4) n).1 = _
    rw [ih, List.range_succ_eq_map, List.map_cons, List.map_map]
    refine congr (congrArg List.cons ?head) (List.map_congr_left fun k _ => ?tail)
    case head =>
      show _ = ((s.withSave s []).memRead (a + 0#32) 4).1
      rw [withSave_nil, BitVec.add_zero]
    case tail =>
      rw [memRead_withSave_after, ← add_ofNat_add_four, show 4 + 4 * k = 4 * (k + 1) by omega]
      rfl

end State

/-- Settles O20: the arithmetic of `indexed`, the order of a list and its start and end, and the words of a block. -/
theorem addressingForms : Obligations.AddressingForms := by
  refine ⟨fun s p u w rn off hoff => ?single, fun list base => ⟨regList_ascending list, mem_regList list, ?block⟩,
    fun s a n => s.readWords_eq n a⟩
  case single =>
    simp only [List.forall_mem_cons, List.not_mem_nil, false_implies, implies_true, and_true]
    exact ⟨indexed_spec p u w (s.readReg rn) (s.sdtOffset off), indexed_spec p u w (s.readReg rn) (s.hsdtOffset hoff)⟩
  case block => simp [blockStart, blockFinal]

end Sys2Proof.Machine

/-! ## RAM reads back what was written (R69 to R71) -/

namespace Sys2Proof.Machine

/-! ### The places of an aligned access -/

theorem alignTo_one (a : Word) : alignTo a 1 = a := BitVec.and_allOnes

theorem alignTo_two_toNat (a : Word) : (alignTo a 2).toNat = a.toNat / 2 * 2 := by
  have cleared : alignTo a 2 = a >>> 1 <<< 1 := by
    have kept : ∀ i < 32, (~~~(BitVec.ofNat 32 (2 - 1))).getLsbD i = decide (1 ≤ i) := by decide
    refine BitVec.eq_of_getLsbD_eq fun i hi => ?_
    rw [alignTo, BitVec.getLsbD_and, kept i hi]
    cases i <;> simp [hi, Nat.add_comm 1]
  have := a.isLt
  rw [cleared, BitVec.toNat_shiftLeft, BitVec.toNat_ushiftRight, Nat.shiftLeft_eq, Nat.shiftRight_eq_div_pow]
  omega

section Access

variable {n : Nat} (hn : n = 1 ∨ n = 2 ∨ n = 4) (a : Word)
include hn

theorem alignTo_toNat : (alignTo a n).toNat = a.toNat / n * n := by
  rcases hn with rfl | rfl | rfl
  · rw [alignTo_one, Nat.div_one, Nat.mul_one]
  · exact alignTo_two_toNat a
  · exact alignTo_four_toNat a

/-- An aligned access does not wrap around. -/
theorem alignTo_add_toNat {k : Nat} (hk : k < n) : (alignTo a n + BitVec.ofNat 32 k).toNat = (alignTo a n).toNat + k := by
  have := a.isLt
  have aligned := alignTo_toNat hn a
  rw [BitVec.toNat_add, BitVec.toNat_ofNat]
  rcases hn with rfl | rfl | rfl <;> omega

/-- The bytes of an access lie in one aligned word. -/
theorem access_word {k : Nat} (hk : k < n) : (alignTo a n + BitVec.ofNat 32 k).toNat / 4 = a.toNat / 4 := by
  rw [alignTo_add_toNat hn a hk, alignTo_toNat hn a]
  rcases hn with rfl | rfl | rfl <;> omega

end Access

/-- The RAM windows (R61, R62). -/
theorem isRam_iff (a : Word) : isRam a = true ↔
    (0x2000000 ≤ a.toNat ∧ a.toNat < 0x4000000) ∨ (0x5000000 ≤ a.toNat ∧ a.toNat < 0x5000400) ∨
    (0x6000000 ≤ a.toNat ∧ a.toNat < 0x6018000) ∨ (0x7000000 ≤ a.toNat ∧ a.toNat < 0x7000400) := by
  unfold isRam region
  simp only
  split <;> (try split) <;> simp only [Region.ramKey, Option.isSome, true_iff, Bool.false_eq_true, false_iff, imp_false] at * <;> omega

/-- The RAM windows begin and end at word boundaries. -/
theorem isRam_of_word {a b : Word} (ha : isRam a = true) (h : b.toNat / 4 = a.toNat / 4) : isRam b = true := by
  rw [isRam_iff] at *
  omega

/-- Every byte of an access to a RAM word is RAM. -/
theorem isRam_access {a : Word} (ha : isRam (alignTo a 4) = true) {n : Nat} (hn : n = 1 ∨ n = 2 ∨ n = 4) :
    ∀ k < n, isRam (alignTo a n + BitVec.ofNat 32 k) = true := by
  intro k hk
  refine isRam_of_word ha ?_
  rw [access_word hn a hk, alignTo_four_toNat]
  omega

/-! ### The value of a bus read is its bytes -/

namespace State

/-- A bus read of `n` bytes gives a number of `n` bytes. -/
theorem readBytes_lt (n : Nat) : ∀ (s : State) (a : Word), (s.readBytes a n).1.toNat < 2 ^ (8 * n) := by
  induction n with
  | zero => exact fun _ _ => Nat.one_pos
  | succ n ih =>
    intro s a
    show ((s.busReadByte a).1.setWidth 32 ||| ((s.busReadByte a).2.readBytes (a + 1) n).1 <<< 8).toNat < _
    have hi := ih (s.busReadByte a).2 (a + 1)
    have lo := (s.busReadByte a).1.isLt
    rw [BitVec.toNat_or]
    refine Nat.or_lt_two_pow ?low ?high
    case low =>
      have : 2 ^ 8 ≤ 2 ^ (8 * (n + 1)) := Nat.pow_le_pow_right (by decide) (by omega)
      rw [BitVec.toNat_setWidth, Nat.mod_eq_of_lt (by omega)]
      omega
    case high =>
      rw [BitVec.toNat_shiftLeft, Nat.shiftLeft_eq]
      calc
        _ ≤ _ := Nat.mod_le _ _
        _ < 2 ^ (8 * n) * 2 ^ 8 := Nat.mul_lt_mul_of_pos_right hi (by decide)
        _ = 2 ^ (8 * (n + 1)) := by rw [← Nat.pow_add, Nat.mul_succ]

theorem memRead_lt (s : State) (a : Word) (n : Nat) : (s.memRead a n).1.toNat < 2 ^ (8 * n) := readBytes_lt n s (alignTo a n)

end State

/-- A number of `n` bytes is known by its bytes. -/
theorem getLsbD_of_bytes {n : Nat} {x v : Word} (small : x.toNat < 2 ^ (8 * n))
    (bytes : ∀ k < n, x.extractLsb' (8 * k) 8 = v.extractLsb' (8 * k) 8) (i : Nat) :
    x.getLsbD i = (decide (i < 8 * n) && v.getLsbD i) := by
  by_cases hi : i < 8 * n
  · have byte := congrArg (fun b : Byte => b.getLsbD (i % 8)) (bytes (i / 8) (by omega))
    simp only [BitVec.getLsbD_extractLsb', Nat.mod_lt i (by decide : 0 < 8), decide_true, Bool.true_and, Nat.div_add_mod] at byte
    simp [hi, byte]
  · have high : x.toNat.testBit i = false :=
      Nat.testBit_lt_two_pow (Nat.lt_of_lt_of_le small (Nat.pow_le_pow_right (by decide) (by omega)))
    simp [hi, BitVec.getLsbD, high]

/-- The low `n` bytes of a word, as a mask says them. -/
theorem eq_and_of_bytes {n : Nat} {x v mask : Word} (small : x.toNat < 2 ^ (8 * n))
    (bytes : ∀ k < n, x.extractLsb' (8 * k) 8 = v.extractLsb' (8 * k) 8)
    (hmask : ∀ i < 32, mask.getLsbD i = decide (i < 8 * n)) : x = v &&& mask := by
  refine BitVec.eq_of_getLsbD_eq fun i hi => ?_
  rw [getLsbD_of_bytes small bytes, BitVec.getLsbD_and, hmask i hi, Bool.and_comm]

/-- A bus read of RAM gives the bytes that are there. -/
theorem HoldsBytes.memRead {t : State} {a v : Word} {n : Nat} (h : HoldsBytes t (alignTo a n) n v) (hn : n ≤ 4)
    (ram : ∀ k < n, isRam (alignTo a n + BitVec.ofNat 32 k) = true) :
    ∀ k < n, (t.memRead a n).1.extractLsb' (8 * k) 8 = v.extractLsb' (8 * k) 8 :=
  fun k hk => (State.memRead_byte hn rfl rfl hk (State.isMemory_of_isRam (ram k hk))).trans (h k hk)

/-- RAM reads back the low bytes of what was written, at every width (R69). -/
theorem State.memRead_memWrite {s : State} {a : Word} (v : Word) (wf : Memory.wf s.mem = true) {n : Nat} (hn : n ≤ 4)
    (ram : ∀ k < n, isRam (alignTo a n + BitVec.ofNat 32 k) = true) {mask : Word}
    (hmask : ∀ i < 32, mask.getLsbD i = decide (i < 8 * n)) : ((s.memWrite a n v).memRead a n).1 = v &&& mask :=
  eq_and_of_bytes (memRead_lt _ a n) ((memWrite_same v wf hn ram).memRead hn ram) hmask

/-! ### A write to RAM changes the memory only -/

theorem anyByte_eq_false {test : Word → Bool} {a : Word} {n : Nat} (h : ∀ k < n, test (a + BitVec.ofNat 32 k) = false) :
    anyByte test a n = false := by
  simpa [anyByte] using h

/-- RAM is mapped and may be written (R63, R64). -/
theorem State.ram_writable (s : State) {a : Word} (h : isRam a = true) : s.writeMapped a = true ∧ s.readOnly a = false := by
  unfold isRam at h
  unfold writeMapped readOnly
  generalize region a = r at *
  cases r <;> simp [Region.ramKey] at h ⊢

/-- A bus write to RAM changes the memory and leaves no diagnostic. -/
theorem State.memWrite_ram_eq {s : State} {a : Word} {n : Nat} (v : Word)
    (ram : ∀ k < n, isRam (alignTo a n + BitVec.ofNat 32 k) = true) : ∃ m, s.memWrite a n v = { s with mem := m } := by
  have mapped : anyByte (fun x => !s.writeMapped x) (alignTo a n) n = false :=
    anyByte_eq_false fun k hk => by simp [s.ram_writable (ram k hk)]
  have writable : anyByte (fun x => s.readOnly x) (alignTo a n) n = false :=
    anyByte_eq_false fun k hk => (s.ram_writable (ram k hk)).2
  unfold memWrite busWrite
  simp only [mapped, writable, Bool.false_eq_true, if_false]
  exact writeBytes_ram n v ram

/-! ### Two halfwords make a word -/

theorem alignTo_two_of_four {a : Word} (h : a = alignTo a 4) : alignTo a 2 = a ∧ alignTo (a + 2) 2 = a + 2 := by
  have multiple : a.toNat % 4 = 0 := by
    have := congrArg BitVec.toNat h
    rw [alignTo_four_toNat] at this
    omega
  have := a.isLt
  constructor <;> apply BitVec.eq_of_toNat_eq <;> rw [alignTo_two_toNat]
  · omega
  · rw [BitVec.toNat_add, show (2 : Word).toNat = 2 from rfl]
    omega

/-- Byte `k` of the upper half of a word. -/
theorem extractLsb'_ushiftRight (v : Word) (m k : Nat) : (v >>> m).extractLsb' k 8 = v.extractLsb' (m + k) 8 := by
  refine BitVec.eq_of_getLsbD_eq fun i hi => ?_
  simp [hi, Nat.add_assoc]

theorem add_two_add (a : Word) (k : Nat) : a + BitVec.ofNat 32 (k + 2) = a + 2 + BitVec.ofNat 32 k := by
  rw [BitVec.ofNat_add, BitVec.add_comm (BitVec.ofNat 32 k), ← BitVec.add_assoc]; rfl

/-- Two halfwords written make the little-endian word (R71). -/
theorem State.holdsBytes_two_halves {s : State} {a : Word} (v : Word) (wf : Memory.wf s.mem = true) (aligned : a = alignTo a 4)
    (ram : ∀ k < 4, isRam (a + BitVec.ofNat 32 k) = true) :
    HoldsBytes ((s.memWrite a 2 v).memWrite (a + 2) 2 (v >>> 16)) a 4 v := by
  obtain ⟨low, high⟩ := alignTo_two_of_four aligned
  have first := memWrite_same v wf (n := 2) (by decide) fun j hj => low.symm ▸ ram j (by omega)
  have second := memWrite_same (a := a + 2) (v >>> 16) (memWrite_wf a 2 v wf) (n := 2) (by decide) fun j hj => by
    rw [high, ← add_two_add]
    exact ram (j + 2) (by omega)
  rw [low] at first
  rw [high] at second
  intro k hk
  by_cases hk2 : k < 2
  · refine (memWrite_other _ (a + 2) 2 _ _ (isMemory_of_isRam (ram k hk)) fun j hj same => ?_).trans (first k hk2)
    rw [high, ← add_two_add] at same
    have := region_ram_mod (ram k hk) same
    rw [toNat_add_mod, toNat_add_mod] at this
    omega
  · obtain ⟨j, rfl⟩ := Nat.exists_eq_add_of_le' (Nat.le_of_not_lt hk2)
    rw [add_two_add, second j (by omega), extractLsb'_ushiftRight]
    congr 1
    omega

/-- Settles O50: the bytes written are the bytes read, a write to RAM changes the memory alone, and in it only the bytes written. -/
theorem ramReadsBack : Obligations.RamReadsBack := by
  intro s a v wf ram
  have access {n : Nat} := isRam_access ram (n := n)
  refine ⟨?word, ?half, ?byte, fun aligned => ?halves, fun n hn => ⟨State.memWrite_ram_eq v (access hn), State.memWrite_other s a n v⟩⟩
  case word =>
    rw [State.memRead_memWrite v wf (by decide) (access (by decide)) (mask := 0xFFFFFFFF) (by decide)]
    exact BitVec.and_allOnes
  case half => exact State.memRead_memWrite v wf (by decide) (access (by decide)) (by decide)
  case byte => exact State.memRead_memWrite v wf (by decide) (access (by decide)) (by decide)
  case halves =>
    have bytes := access (n := 4) (by decide)
    have holds := State.holdsBytes_two_halves v wf aligned (aligned ▸ bytes)
    rw [eq_and_of_bytes (State.memRead_lt _ a 4) ((aligned ▸ holds : HoldsBytes _ (alignTo a 4) 4 v).memRead (by decide) bytes)
      (mask := 0xFFFFFFFF) (by decide)]
    exact BitVec.and_allOnes

end Sys2Proof.Machine

/-! ## The address map (R60 to R70) -/

namespace Sys2Proof.Machine

/-! ### The windows of the map (R61, R62) -/

section Windows

variable {a : Word}

theorem region_bios (hi : a.toNat < 0x4000) : region a = .bios a.toNat := by
  have top : a.toNat / 0x1000000 = 0 := by omega
  simp only [region, top]
  exact if_pos (by omega)

theorem region_ewram (lo : 0x2000000 ≤ a.toNat) (hi : a.toNat < 0x3000000) : region a = .ewram (a.toNat % 0x40000) := by
  have top : a.toNat / 0x1000000 = 2 := by omega
  simp only [region, top]

theorem region_iwram (lo : 0x3000000 ≤ a.toNat) (hi : a.toNat < 0x4000000) : region a = .iwram (a.toNat % 0x8000) := by
  have top : a.toNat / 0x1000000 = 3 := by omega
  simp only [region, top]

theorem region_io (lo : 0x4000000 ≤ a.toNat) (hi : a.toNat < 0x4000400) : region a = .io (a.toNat % 0x400) := by
  have top : a.toNat / 0x1000000 = 4 := by omega
  simp only [region, top]
  exact if_pos (by omega)

theorem region_rom (lo : 0x8000000 ≤ a.toNat) (hi : a.toNat < 0xE000000) : region a = .rom (a.toNat % 0x2000000) := by
  have top : a.toNat / 0x1000000 = 8 ∨ a.toNat / 0x1000000 = 9 ∨ a.toNat / 0x1000000 = 10 ∨ a.toNat / 0x1000000 = 11 ∨
      a.toNat / 0x1000000 = 12 ∨ a.toNat / 0x1000000 = 13 := by omega
  rcases top with h | h | h | h | h | h <;> simp only [region, h]

theorem region_save (lo : 0xE000000 ≤ a.toNat) (hi : a.toNat < 0xE010000) : region a = .save (a.toNat % 0x10000) := by
  have top : a.toNat / 0x1000000 = 14 := by omega
  simp only [region, top]
  exact if_pos (by omega)

/-- The places of the map where nothing is: above it, in an unused part, or beyond a window that does not repeat (R63; D9). -/
def OffMap (a : Nat) : Prop :=
  0x10000000 ≤ a ∨ (0x00004000 ≤ a ∧ a < 0x02000000) ∨ (0x04000400 ≤ a ∧ a < 0x05000000) ∨ (0x05000400 ≤ a ∧ a < 0x06000000) ∨
    (0x06018000 ≤ a ∧ a < 0x07000000) ∨ (0x07000400 ≤ a ∧ a < 0x08000000) ∨ (0x0E010000 ≤ a ∧ a < 0x10000000)

theorem region_offMap (h : OffMap a.toNat) : region a = .unmapped := by
  unfold OffMap at h
  unfold region
  simp only
  split <;> (try split) <;> first | rfl | omega

end Windows

/-! ### Accesses that change nothing but the diagnostics -/

namespace State

/-- A bus read gives these bytes and no more, and leaves the state `t`. -/
def ReadsAs (s : State) (a : Word) (n : Nat) (byte : Nat → Byte) (t : State) : Prop :=
  (∀ k < n, (s.memRead a n).1.extractLsb' (8 * k) 8 = byte k) ∧ (s.memRead a n).1.toNat < 2 ^ (8 * n) ∧ (s.memRead a n).2 = t

theorem readBytes_still {s : State} (n : Nat) : ∀ {a : Word}, (∀ k < n, (s.busReadByte (a + BitVec.ofNat 32 k)).2 = s) →
    (s.readBytes a n).2 = s := by
  induction n with
  | zero => exact fun _ => rfl
  | succ n ih =>
    intro a h
    have first : (s.busReadByte a).2 = s := by simpa using h 0 (by omega)
    show ((s.busReadByte a).2.readBytes (a + 1) n).2 = s
    rw [first]
    refine ih fun k hk => ?_
    rw [← add_ofNat_succ]
    exact h (k + 1) (by omega)

/-- A bus read whose bytes change nothing leaves at most the diagnostic of unmapped bytes (R63, R70). -/
theorem readsAs_of_still {s : State} {a : Word} {n : Nat} (hn : n ≤ 4) {byte : Nat → Byte}
    (h : ∀ k < n, s.busReadByte (alignTo a n + BitVec.ofNat 32 k) = (byte k, s)) :
    s.ReadsAs a n byte (if anyByte (fun x => !s.readMapped x) (alignTo a n) n then s.emit .unmappedRead (alignTo a n) else s) := by
  have still : ∀ m ≤ n, (s.readBytes (alignTo a n) m).2 = s := fun m hm =>
    readBytes_still m fun k hk => by rw [h k (by omega)]
  refine ⟨fun k hk => ?_, memRead_lt s a n, ?_⟩
  · refine (readBytes_byte hn hk s (alignTo a n)).trans ?_
    rw [still k (by omega), h k hk]
  · unfold memRead busRead
    simp only [still n (Nat.le_refl n)]

theorem writeBytes_dropped {s : State} (n : Nat) : ∀ {a : Word} (v : Word),
    (∀ k < n, ∀ b, s.busWriteByte (a + BitVec.ofNat 32 k) b = s) → s.writeBytes a v n = s := by
  induction n with
  | zero => exact fun _ _ => rfl
  | succ n ih =>
    intro a v h
    have first : s.busWriteByte a (v.extractLsb' 0 8) = s := by simpa using h 0 (by omega) (v.extractLsb' 0 8)
    show (s.busWriteByte a (v.extractLsb' 0 8)).writeBytes (a + 1) (v >>> 8) n = s
    rw [first]
    refine ih _ fun k hk => ?_
    rw [← add_ofNat_succ]
    exact h (k + 1) (by omega)

end State

theorem anyByte_eq_true {test : Word → Bool} {a : Word} {n k : Nat} (hk : k < n) (h : test (a + BitVec.ofNat 32 k) = true) :
    anyByte test a n = true := by
  simpa [anyByte] using ⟨k, hk, h⟩

/-! ### Unmapped accesses (R63, R65, R68; D8, D10, D11) -/

/-- Nothing answers at `a`: it is off the map, or in the window of a BIOS image or a save device that is not there. -/
inductive Unowned (s : State) (a : Word) : Prop
  | offMap (h : region a = .unmapped)
  | noBios {o : Nat} (h : region a = .bios o) (absent : s.params.biosPresent = false)
  | noSave {o : Nat} (h : region a = .save o) (absent : s.save = none)

namespace Unowned

variable {s : State} {a : Word}

theorem read (h : Unowned s a) : s.busReadByte a = (s.params.unusedValue, s) := by
  cases h with
  | offMap h => simp [State.busReadByte, h]
  | noBios h absent => simp [State.busReadByte, h, absent]
  | noSave h absent => simp [State.busReadByte, h, absent]

theorem write {t : State} (h : Unowned s a) (save : t.save = s.save) (b : Byte) : t.busWriteByte a b = t := by
  cases h with
  | offMap h => simp [State.busWriteByte, h]
  | noBios h absent => simp [State.busWriteByte, h]
  | noSave h absent => simp [State.busWriteByte, h, save, absent]

theorem flags (h : Unowned s a) : s.readMapped a = false ∧ s.writeMapped a = false ∧ s.readOnly a = false := by
  cases h with
  | offMap h => simp [State.readMapped, State.writeMapped, State.readOnly, h]
  | noBios h absent => simp [State.readMapped, State.writeMapped, State.readOnly, h, absent]
  | noSave h absent => simp [State.readMapped, State.writeMapped, State.readOnly, h, absent]

/-- An access where nothing answers: the unused value in every byte, or a write dropped, and one diagnostic. -/
theorem access {n : Nat} (hn : n = 1 ∨ n = 2 ∨ n = 4) (h : ∀ k < n, Unowned s (alignTo a n + BitVec.ofNat 32 k)) (v : Word) :
    s.ReadsAs a n (fun _ => s.params.unusedValue) (s.emit .unmappedRead (alignTo a n)) ∧
      s.memWrite a n v = s.emit .unmappedWrite (alignTo a n) := by
  have pos : 0 < n := by omega
  obtain ⟨unread, unwritten, -⟩ := (h 0 pos).flags
  constructor
  · have reads := State.readsAs_of_still (by omega) fun k hk => (h k hk).read
    rwa [anyByte_eq_true pos (by simp only [unread, Bool.not_false]), if_pos rfl] at reads
  · have unmapped : anyByte (fun x => !s.writeMapped x) (alignTo a n) n = true :=
      anyByte_eq_true pos (by simp only [unwritten, Bool.not_false])
    have writable : anyByte (fun x => s.readOnly x) (alignTo a n) n = false := anyByte_eq_false fun k hk =>
      have ⟨_, _, writable⟩ := (h k hk).flags
      writable
    unfold State.memWrite State.busWrite
    simp only [unmapped, writable, if_true, Bool.false_eq_true, if_false]
    exact State.writeBytes_dropped n v fun k hk b => (h k hk).write (t := s.emit _ _) rfl b

end Unowned

/-! ### The images (R64, R65, R67; D10) -/

/-- A write to an image is dropped and leaves the read-only diagnostic. -/
theorem State.memWrite_readOnly {s : State} {a : Word} {n : Nat} (pos : 0 < n)
    (h : ∀ k < n, s.readOnly (alignTo a n + BitVec.ofNat 32 k) = true) (v : Word) :
    s.memWrite a n v = s.emit .readonlyWrite (alignTo a n) := by
  have image : ∀ k < n, InImage (alignTo a n + BitVec.ofNat 32 k) ∧ s.writeMapped (alignTo a n + BitVec.ofNat 32 k) = true := by
    intro k hk
    have only := h k hk
    unfold State.readOnly at only
    unfold InImage State.writeMapped
    split at only <;> simp_all
  have mapped : anyByte (fun x => !s.writeMapped x) (alignTo a n) n = false := anyByte_eq_false fun k hk => by simp [image k hk]
  have readOnly : anyByte (fun x => s.readOnly x) (alignTo a n) n = true := anyByte_eq_true pos (h 0 pos)
  unfold State.memWrite State.busWrite
  simp only [mapped, readOnly, if_true, Bool.false_eq_true, if_false]
  exact State.writeBytes_dropped n v fun k hk b => State.busWriteByte_inImage _ (image k hk).1 b

section Images

variable {s : State} {a : Word} {n : Nat} (hn : n = 1 ∨ n = 2 ∨ n = 4)
include hn

theorem bios_access (hi : a.toNat < 0x4000) (present : s.params.biosPresent = true) (v : Word) :
    s.ReadsAs a n (fun k => Memory.read s.mem ((alignTo a n).toNat + k)) s ∧
      s.memWrite a n v = s.emit .readonlyWrite (alignTo a n) := by
  have place : ∀ k < n, region (alignTo a n + BitVec.ofNat 32 k) = .bios ((alignTo a n).toNat + k) := by
    intro k hk
    have word := access_word hn a hk
    rw [region_bios (by omega), alignTo_add_toNat hn a hk]
  constructor
  · have reads := State.readsAs_of_still (s := s) (a := a) (n := n) (by omega)
      (byte := fun k => Memory.read s.mem ((alignTo a n).toNat + k)) fun k hk => by simp [State.busReadByte, place k hk, present]
    rwa [anyByte_eq_false fun k hk => by simp [State.readMapped, place k hk, present]] at reads
  · exact State.memWrite_readOnly (by omega) (fun k hk => by simp [State.readOnly, place k hk, present]) v

theorem rom_access (lo : 0x08000000 ≤ a.toNat) (hi : a.toNat < 0x0E000000) (v : Word) :
    let o := (alignTo a n).toNat % 0x02000000
    let len := s.params.romLen.val
    s.ReadsAs a n (fun k => if o + k < len then Memory.read s.mem (0x08000000 + (o + k)) else s.params.unusedValue)
        (if o + n ≤ len then s else s.emit .unmappedRead (alignTo a n)) ∧
      s.memWrite a n v = s.emit .readonlyWrite (alignTo a n) := by
  intro o len
  have place : ∀ k < n, region (alignTo a n + BitVec.ofNat 32 k) = .rom (o + k) := by
    intro k hk
    have word := access_word hn a hk
    have aligned := alignTo_toNat hn a
    rw [region_rom (by omega) (by omega), alignTo_add_toNat hn a hk]
    congr 1
    rcases hn with rfl | rfl | rfl <;> omega
  constructor
  · have reads := State.readsAs_of_still (s := s) (a := a) (n := n) (by omega)
      (byte := fun k => if o + k < len then Memory.read s.mem (0x08000000 + (o + k)) else s.params.unusedValue) fun k hk => by
        simp [State.busReadByte, place k hk, romKey, len]
    by_cases fits : o + n ≤ len
    · rw [anyByte_eq_false fun k hk => by simp [State.readMapped, place k hk]; omega] at reads
      rwa [if_pos fits]
    · rw [anyByte_eq_true (k := n - 1) (by omega) (by simp [State.readMapped, place (n - 1) (by omega)]; omega)] at reads
      rwa [if_neg fits]
  · exact State.memWrite_readOnly (by omega) (fun k hk => by simp [State.readOnly, place k hk]) v

end Images

/-! ### The save device (R68; D11, log 17) -/

section SaveDevice

/-- The `n` bytes from `a` on are in the window of the save device. -/
def InSave (a : Word) (n : Nat) : Prop :=
  ∀ k < n, 0x0E000000 ≤ (a + BitVec.ofNat 32 k).toNat ∧ (a + BitVec.ofNat 32 k).toNat < 0x0E010000

variable {a : Word} {n : Nat}

theorem InSave.tail (h : InSave a (n + 1)) : InSave (a + 1) n := by
  intro k hk
  rw [← State.add_ofNat_succ]
  exact h (k + 1) (by omega)

theorem InSave.region {k : Nat} (h : InSave a n) (hk : k < n) :
    region (a + BitVec.ofNat 32 k) = .save ((a + BitVec.ofNat 32 k).toNat % 0x10000) := region_save (h k hk).1 (h k hk).2

theorem InSave.region_head (h : InSave a (n + 1)) : Machine.region a = .save (a.toNat % 0x10000) := by
  simpa using h.region (k := 0) (by omega)

theorem ofNat_mod_eq_setWidth (a : Word) : BitVec.ofNat 16 (a.toNat % 0x10000) = a.setWidth 16 := by
  apply BitVec.eq_of_toNat_eq
  simp

/-- The history of a read in the window: one byte read at each offset, newest first. -/
theorem saveReads_eq (n : Nat) : ∀ {a : Word}, InSave a n →
    saveReads a n = ((List.range n).map fun k => Config.SaveEvent.read ((a + BitVec.ofNat 32 k).setWidth 16)).reverse := by
  induction n with
  | zero => exact fun _ => rfl
  | succ n ih =>
    intro a h
    have first : saveRead a = [.read (a.setWidth 16)] := by
      simp only [saveRead, h.region_head, ofNat_mod_eq_setWidth]
    rw [saveReads, first, ih h.tail, List.range_succ_eq_map, List.map_cons, List.map_map, List.reverse_cons]
    refine congr (congrArg HAppend.hAppend (congrArg List.reverse (List.map_congr_left fun k _ => ?_))) (by rw [BitVec.add_zero])
    rw [← State.add_ofNat_succ]
    rfl

/-- The history of a write in the window: one byte write at each offset, newest first. -/
theorem saveWrites_eq (n : Nat) : ∀ {a : Word} (v : Word), InSave a n →
    saveWrites a v n = ((List.range n).map fun k =>
      Config.SaveEvent.write ((a + BitVec.ofNat 32 k).setWidth 16) (v.extractLsb' (8 * k) 8)).reverse := by
  induction n with
  | zero => exact fun _ _ => rfl
  | succ n ih =>
    intro a v h
    have first : saveWrite a (v.extractLsb' 0 8) = [.write (a.setWidth 16) (v.extractLsb' 0 8)] := by
      simp only [saveWrite, h.region_head, ofNat_mod_eq_setWidth]
    rw [saveWrites, first, ih _ h.tail, List.range_succ_eq_map, List.map_cons, List.map_map, List.reverse_cons]
    refine congr (congrArg HAppend.hAppend (congrArg List.reverse (List.map_congr_left fun k _ => ?_))) (by rw [BitVec.add_zero])
    rw [← State.add_ofNat_succ, extractLsb'_ushiftRight, Nat.add_comm 8, ← Nat.mul_succ]
    rfl

namespace State

/-- The device answers a byte read with the accesses before it. -/
theorem busReadByte_inSave {s : State} {old : List Config.SaveEvent} (present : s.save = some old) {k : Nat} (h : InSave a n)
    (hk : k < n) :
    (s.busReadByte (a + BitVec.ofNat 32 k)).1 = Config.saveRead old ((a + BitVec.ofNat 32 k).setWidth 16) := by
  simp only [busReadByte, h.region hk, present, ofNat_mod_eq_setWidth]

/-- A bus read in the window. -/
theorem memRead_inSave {s : State} {old : List Config.SaveEvent} (present : s.save = some old) (hn : n ≤ 4)
    (h : InSave (alignTo a n) n) :
    s.ReadsAs a n
      (fun k => Config.saveRead (saveReads (alignTo a n) k ++ old) ((alignTo a n + BitVec.ofNat 32 k).setWidth 16))
      { s with save := some (saveReads (alignTo a n) n ++ old) } := by
  refine ⟨fun k hk => ?byte, memRead_lt s a n, ?state⟩
  case byte =>
    refine (readBytes_byte hn hk s (alignTo a n)).trans (busReadByte_inSave ?_ h hk)
    rw [readBytes_saveGrew k s (alignTo a n), present]
    rfl
  case state =>
    have mapped : anyByte (fun x => !s.readMapped x) (alignTo a n) n = false :=
      anyByte_eq_false fun k hk => by simp [readMapped, h.region hk, present]
    have save := memRead_saveGrew s a n
    have diags := memRead_diags s a n
    obtain ⟨new, d, e⟩ := memRead_frame s a n
    unfold SaveGrew at save
    rw [e, present] at save
    rw [e, mapped] at diags
    obtain rfl : new = _ := save
    obtain rfl : d = _ := diags
    exact e

theorem writeBytes_inSave (n : Nat) : ∀ {s : State} {a : Word} {old : List Config.SaveEvent} (v : Word), s.save = some old →
    InSave a n → s.writeBytes a v n = { s with save := some (saveWrites a v n ++ old) } := by
  induction n with
  | zero =>
    intro s a old v present _
    show s = { s with save := some old }
    rw [← present]
  | succ n ih =>
    intro s a old v present h
    have first : s.busWriteByte a (v.extractLsb' 0 8) =
        { s with save := some (.write (BitVec.ofNat 16 (a.toNat % 0x10000)) (v.extractLsb' 0 8) :: old) } := by
      simp only [busWriteByte, h.region_head, present]
    rw [writeBytes, first, ih _ rfl h.tail, saveWrites, saveWrite, h.region_head]
    simp

/-- A bus write in the window. -/
theorem memWrite_inSave {s : State} {old : List Config.SaveEvent} (present : s.save = some old) (h : InSave (alignTo a n) n)
    (v : Word) : s.memWrite a n v = { s with save := some (saveWrites (alignTo a n) v n ++ old) } := by
  have mapped : anyByte (fun x => !s.writeMapped x) (alignTo a n) n = false :=
    anyByte_eq_false fun k hk => by simp [writeMapped, h.region hk, present]
  have writable : anyByte (fun x => s.readOnly x) (alignTo a n) n = false :=
    anyByte_eq_false fun k hk => by simp [readOnly, h.region hk]
  unfold memWrite busWrite
  simp only [mapped, writable, Bool.false_eq_true, if_false]
  exact writeBytes_inSave n v present h

end State

end SaveDevice

/-- Settles O51: each window by its region, and each kind of access by what its bytes do. -/
theorem addressMapEdges : Obligations.AddressMapEdges := by
  intro s a v n hn u ea reads unmapped
  have word := fun k (hk : k < n) => access_word hn a hk
  refine ⟨fun lo hi => ?ewram, fun lo hi => ?iwram, fun lo hi => ?romMirror, fun off => ?offMap, fun hi => ⟨?bios, ?noBios⟩,
    fun lo hi => rom_access hn lo hi v, fun lo hi => ⟨?save, ?noSave⟩⟩
  case ewram =>
    have sum : (a + 0x40000).toNat = a.toNat + 0x40000 := by bv_omega
    rw [region_ewram (by omega) (by omega), region_ewram lo (by omega), sum, Nat.add_mod_right]
  case iwram =>
    have sum : (a + 0x8000).toNat = a.toNat + 0x8000 := by bv_omega
    rw [region_iwram (by omega) (by omega), region_iwram lo (by omega), sum, Nat.add_mod_right]
  case romMirror =>
    have sum : (a + 0x02000000).toNat = a.toNat + 0x02000000 := by bv_omega
    rw [region_rom (by omega) (by omega), region_rom lo (by omega), sum, Nat.add_mod_right]
  case offMap =>
    refine Unowned.access hn (fun k hk => .offMap (region_offMap ?_)) v
    have := word k hk
    unfold OffMap
    omega
  case bios => exact fun present => bios_access hn hi present v
  case noBios =>
    refine fun absent => Unowned.access hn (fun k hk => .noBios (region_bios ?_) absent) v
    have := word k hk
    omega
  case save =>
    intro old present off seen writes
    have inSave : InSave (alignTo a n) n := fun k hk => by
      have := word k hk
      constructor <;> omega
    have seenEq : ∀ m ≤ n, saveReads (alignTo a n) m = seen m := fun m hm => saveReads_eq m fun k hk => inSave k (by omega)
    have writesEq : saveWrites (alignTo a n) v n = writes := saveWrites_eq n v inSave
    obtain ⟨bytes, small, state⟩ := State.memRead_inSave present (by omega) inSave
    refine ⟨⟨fun k hk => (bytes k hk).trans ?_, small, state.trans ?_⟩, (State.memWrite_inSave present inSave v).trans ?_⟩
    · simp only [seenEq k (by omega)]
      rfl
    · rw [seenEq n (Nat.le_refl n)]
    · rw [writesEq]
  case noSave =>
    refine fun absent => Unowned.access hn (fun k hk => .noSave (region_save ?_ ?_) absent) v
    all_goals
      have := word k hk
      omega

end Sys2Proof.Machine

/-! ## Writes to the I/O registers (R74, R75, R440 to R453, R460, R480 to R482, R488, R493, R497, R498) -/

namespace Sys2Proof.Machine

/-! ### Requests and halt release (R441, R451) -/

/-- Halt release as a value: the CPU stays halted while no enabled interrupt is pending (R451). -/
theorem State.releaseHalt_eq (s : State) :
    s.releaseHalt = { s with halted := s.halted && decide (s.iflag &&& s.ie = 0) } := by
  unfold releaseHalt
  by_cases quiet : s.iflag &&& s.ie = 0
  · simp only [quiet, if_true, decide_true, Bool.and_true]
  · simp only [quiet, if_false, decide_false, Bool.and_false]

/-- A request as a value (R441). -/
theorem State.request_eq (s : State) (line : Nat) :
    let i := s.iflag ||| (1#16 <<< line)
    s.request line = { s with iflag := i, halted := s.halted && decide (i &&& s.ie = 0) } := by
  intro i
  rw [request, releaseHalt_eq]

/-! ### The map of the I/O registers (R74) -/

/-- The map ends below 0x400. -/
theorem ioOwner_lt {o : Nat} {r : IoReg} {k : Nat} (h : ioOwner o = some (r, k)) : o < 0x400 := by
  revert h
  fun_cases ioOwner o <;> intro h <;> first | omega | cases h

theorem toNat_io {o : Nat} (h : o < 0x400) : (BitVec.ofNat 32 (0x04000000 + o)).toNat = 0x04000000 + o := by
  rw [BitVec.toNat_ofNat]
  omega

theorem region_ofNat_io {o : Nat} (h : o < 0x400) : region (BitVec.ofNat 32 (0x04000000 + o)) = .io o := by
  have n := toNat_io h
  rw [region_io (by omega) (by omega), n]
  congr 1
  omega

/-- A byte write to a register acts by the register's own rule (R75). -/
theorem State.busWriteByte_owner {o : Nat} {r : IoReg} {k : Nat} (owner : ioOwner o = some (r, k)) (s : State) (b : Byte) :
    s.busWriteByte (BitVec.ofNat 32 (0x04000000 + o)) b = s.ioWriteReg r k b := by
  simp only [busWriteByte, region_ofNat_io (ioOwner_lt owner), ioWriteByte, owner]

/-! ### The places of the registers that come in fours (R74) -/

theorem ioOwner_at_bgcnt : ∀ n : Fin 4, ioOwner (0x008 + 2 * n.val) = some (.bgcnt n, 0) ∧
    ioOwner (0x009 + 2 * n.val) = some (.bgcnt n, 1) := by
  decide

theorem ioOwner_at_bgXofs : ∀ n : Fin 4, ioOwner (0x010 + 4 * n.val) = some (.bgXofs n, 0) ∧
    ioOwner (0x011 + 4 * n.val) = some (.bgXofs n, 1) := by
  decide

theorem ioOwner_at_bgYofs : ∀ n : Fin 4, ioOwner (0x012 + 4 * n.val) = some (.bgYofs n, 0) ∧
    ioOwner (0x013 + 4 * n.val) = some (.bgYofs n, 1) := by
  decide

theorem ioOwner_at_dmaCntL : ∀ n : Fin 4, ioOwner (0x0B8 + 12 * n.val) = some (.dmaCntL n, 0) ∧
    ioOwner (0x0B9 + 12 * n.val) = some (.dmaCntL n, 1) := by
  decide

theorem ioOwner_at_dmaCntH : ∀ n : Fin 4, ioOwner (0x0BA + 12 * n.val) = some (.dmaCntH n, 0) ∧
    ioOwner (0x0BB + 12 * n.val) = some (.dmaCntH n, 1) := by
  decide

theorem ioOwner_at_tmCntL : ∀ n : Fin 4, ioOwner (0x100 + 4 * n.val) = some (.tmCntL n, 0) ∧
    ioOwner (0x101 + 4 * n.val) = some (.tmCntL n, 1) := by
  decide

theorem ioOwner_at_tmCntH : ∀ n : Fin 4, ioOwner (0x102 + 4 * n.val) = some (.tmCntH n, 0) ∧
    ioOwner (0x103 + 4 * n.val) = some (.tmCntH n, 1) := by
  decide

theorem ioOwner_at_dmaSad : ∀ n : Fin 4, ∀ k < 4, ioOwner (0x0B0 + 12 * n.val + k) = some (.dmaSad n, k) := by
  decide

theorem ioOwner_at_dmaDad : ∀ n : Fin 4, ∀ k < 4, ioOwner (0x0B4 + 12 * n.val + k) = some (.dmaDad n, k) := by
  decide

/-! ### Bytes of registers -/

theorem setHalfByte_zero_low (b : Byte) : setHalfByte 0 0 b = b.setWidth 16 := by
  refine BitVec.eq_of_getLsbD_eq fun i hi => ?_
  show ((0 : Half).extractLsb' 8 8 ++ b : BitVec (8 + 8)).getLsbD i = _
  rw [BitVec.getLsbD_append]
  by_cases low : i < 8
  · simp [low, hi]
  · simp [low, BitVec.getLsbD_of_ge b i (by omega)]

theorem setHalfByte_zero_high (b : Byte) : setHalfByte 0 1 b = b.setWidth 16 <<< 8 := by
  refine BitVec.eq_of_getLsbD_eq fun i hi => ?_
  show (b ++ (0 : Half).extractLsb' 0 8 : BitVec (8 + 8)).getLsbD i = _
  rw [BitVec.getLsbD_append]
  by_cases low : i < 8 <;> simp [low, hi]

/-- The bytes of a 32-bit register after a byte write (R75). -/
theorem setWordByte_byte (v : Word) {k j : Nat} (hk : k < 4) (hj : j < 4) (b : Byte) :
    (setWordByte v k b).extractLsb' (8 * j) 8 = if j = k then b else v.extractLsb' (8 * j) 8 := by
  refine BitVec.eq_of_getLsbD_eq fun i hi => ?_
  have window : (0xFF#32 <<< (8 * k)).getLsbD (8 * j + i) = decide (j = k) := by
    have := (by decide : ∀ k < 4, ∀ j < 4, ∀ i < 8, (0xFF#32 <<< (8 * k)).getLsbD (8 * j + i) = decide (j = k))
    exact this k hk j hj i hi
  simp only [setWordByte, BitVec.getLsbD_extractLsb', hi, decide_true, Bool.true_and, BitVec.getLsbD_or, BitVec.getLsbD_and,
    BitVec.getLsbD_not, window, BitVec.getLsbD_shiftLeft, BitVec.getLsbD_setWidth, show 8 * j + i < 32 by omega]
  by_cases same : j = k
  · subst same
    simp [hi, show i < 32 by omega]
  · have outside :
        (!decide (8 * j + i < 8 * k) && (decide (8 * j + i - 8 * k < 32) && b.getLsbD (8 * j + i - 8 * k))) = false := by
      rcases Nat.lt_or_gt_of_ne same with lt | gt
      · simp [show 8 * j + i < 8 * k by omega]
      · simp [BitVec.getLsbD_of_ge b (8 * j + i - 8 * k) (by omega)]
    simp [same, hi, outside]

/-! ### The control words -/

/-- A byte write to the low byte of DMAnCNT_H leaves the enable bit alone, so it starts and stops nothing (R463, R472). -/
theorem State.writeDmaCntH_low (s : State) (n : Fin 4) (b : Byte) :
    s.writeDmaCntH n 0 b = s.setDma n { s.dma[n] with cntH := setHalfByte s.dma[n].cntH 0 b } := by
  have kept : (setHalfByte s.dma[n].cntH 0 b).getLsbD 15 = s.dma[n].cntH.getLsbD 15 := by
    rw [setHalfByte, if_pos rfl, BitVec.getLsbD_append, if_neg (by decide), BitVec.getLsbD_extractLsb']
    rfl
  unfold writeDmaCntH
  simp only [DmaChannel.enable, kept]
  cases s.dma[n].cntH.getLsbD 15 <;> rfl

/-- A byte write to TMnCNT_H: the low byte can bring an enable edge, which loads the counter (R482). -/
theorem State.writeTmCntH_low (s : State) (n : Fin 4) (b : Byte) :
    let tm := s.timers[n]
    let edge := tm.control.getLsbD 7 = false ∧ b.getLsbD 7 = true
    s.writeTmCntH n 0 b = s.setTimer n
      { tm with counter := if edge then tm.reload else tm.counter, control := tm.control.extractLsb' 8 8 ++ b,
                acc := if edge then 0 else tm.acc } := by
  intro tm edge
  have enable : (tm.control.extractLsb' 8 8 ++ b : Half).getLsbD 7 = b.getLsbD 7 := by
    rw [BitVec.getLsbD_append, if_pos (by decide)]
  have word : setHalfByte tm.control 0 b = tm.control.extractLsb' 8 8 ++ b := rfl
  unfold writeTmCntH
  simp only [Timer.enable, edge, tm] at *
  simp only [word, enable]
  cases s.timers[n].control.getLsbD 7 <;> cases b.getLsbD 7 <;> simp [setTimer]

/-- The high byte of TMnCNT_H does not hold the enable bit (R481). -/
theorem State.writeTmCntH_high (s : State) (n : Fin 4) (b : Byte) :
    s.writeTmCntH n 1 b = s.setTimer n { s.timers[n] with control := b ++ s.timers[n].control.extractLsb' 0 8 } := by
  have kept : (setHalfByte s.timers[n].control 1 b).getLsbD 7 = s.timers[n].control.getLsbD 7 := by
    show (b ++ s.timers[n].control.extractLsb' 0 8 : BitVec (8 + 8)).getLsbD 7 = _
    rw [BitVec.getLsbD_append, if_pos (by decide), BitVec.getLsbD_extractLsb']
    rfl
  unfold writeTmCntH
  simp only [Timer.enable, kept]
  cases s.timers[n].control.getLsbD 7 <;> rfl

/-- A byte write to HALTCNT (R450, R451, R453). -/
theorem State.writeHaltcnt_eq (s : State) (b : Byte) :
    s.writeHaltcnt b = if b.getLsbD 7 then s.emit .stopNotImplemented (b.setWidth 32)
      else { s with halted := decide (s.iflag &&& s.ie = 0) } := by
  unfold writeHaltcnt
  rw [releaseHalt_eq]
  rfl

/-! ### The obligation -/

/-- Bit `k` of a request's IF: the line's own bit is set, the others stay (R441). -/
theorem State.request_iflag_getLsbD (s : State) {line : Nat} (hl : line < 16) (k : Nat) :
    (s.request line).iflag.getLsbD k = (s.iflag.getLsbD k || decide (k = line)) :=
  (requestIf_getLsbD s true hl k).trans (by rw [Bool.and_true])

/-- Byte writes to the address registers of a DMA channel store the byte and start nothing (R460). -/
theorem State.writeDmaAddresses (s : State) (n : Fin 4) (b : Byte) {k : Nat} (hk : k < 4) :
    s.busWriteByte (BitVec.ofNat 32 (0x040000B0 + 12 * n.val + k)) b
      = s.setDma n { s.dma[n] with sad := setWordByte s.dma[n].sad k b } ∧
    s.busWriteByte (BitVec.ofNat 32 (0x040000B4 + 12 * n.val + k)) b
      = s.setDma n { s.dma[n] with dad := setWordByte s.dma[n].dad k b } := by
  rw [show 0x040000B0 + 12 * n.val + k = 0x04000000 + (0x0B0 + 12 * n.val + k) by omega,
    show 0x040000B4 + 12 * n.val + k = 0x04000000 + (0x0B4 + 12 * n.val + k) by omega]
  exact ⟨busWriteByte_owner (ioOwner_at_dmaSad n k hk) s b, busWriteByte_owner (ioOwner_at_dmaDad n k hk) s b⟩

/-- Settles O52: a request and a byte write to each register act by the register's own rule. -/
theorem interruptRequestsAndIoWrites : Obligations.InterruptRequestsAndIoWrites := by
  unfold Obligations.InterruptRequestsAndIoWrites
  intro s line n b hline l tm ch lo hi edge lcd timer dma ie
  have write {o : Nat} {r : IoReg} {k : Nat} {t : State} (owner : ioOwner o = some (r, k)) (rule : s.ioWriteReg r k b = t) :
      s.busWriteByte (BitVec.ofNat 32 (0x04000000 + o)) b = t := (State.busWriteByte_owner owner s b).trans rule
  refine ⟨s.request_iflag_getLsbD (by omega), ?halted, ?others, ?registers, ?addresses⟩
  case halted => simp only [State.request_eq]
  case others => simp only [State.request_eq]
  case addresses =>
    intro k hk
    obtain ⟨sad, dad⟩ := s.writeDmaAddresses n b hk
    exact ⟨_, _, sad, dad, fun j hj => ⟨setWordByte_byte _ hk hj b, setWordByte_byte _ hk hj b⟩⟩
  case registers =>
    simp only [List.forall_mem_cons, List.not_mem_nil, false_implies, implies_true, and_true]
    refine ⟨?dispcntLow, ?dispcntHigh, ?dispstatLow, ?dispstatHigh, ?vcountLow, ?vcountHigh, ?bgcntLow, ?bgcntHigh,
      ?xofsLow, ?xofsHigh, ?yofsLow, ?yofsHigh, ?dmaCntLLow, ?dmaCntLHigh, ?dmaCntHLow, ?reloadLow, ?reloadHigh,
      ?tmCntHLow, ?tmCntHHigh, ?keyinputLow, ?keyinputHigh, ?keycntLow, ?keycntHigh, ?ieLow, ?ieHigh, ?iflagLow, ?iflagHigh,
      ?imeLow, ?imeHigh, ?haltcnt⟩
    case dispcntLow => exact write (r := .dispcnt) (k := 0) rfl rfl
    case dispcntHigh => exact write (r := .dispcnt) (k := 1) rfl rfl
    case dispstatLow => exact write (r := .dispstat) (k := 0) rfl rfl
    case dispstatHigh => exact write (r := .dispstat) (k := 1) rfl rfl
    case vcountLow => exact write (r := .vcount) (k := 0) rfl rfl
    case vcountHigh => exact write (r := .vcount) (k := 1) rfl rfl
    case bgcntLow => exact write (ioOwner_at_bgcnt n).1 rfl
    case bgcntHigh => exact write (ioOwner_at_bgcnt n).2 rfl
    case xofsLow => exact write (ioOwner_at_bgXofs n).1 rfl
    case xofsHigh => exact write (ioOwner_at_bgXofs n).2 rfl
    case yofsLow => exact write (ioOwner_at_bgYofs n).1 rfl
    case yofsHigh => exact write (ioOwner_at_bgYofs n).2 rfl
    case dmaCntLLow => exact write (ioOwner_at_dmaCntL n).1 rfl
    case dmaCntLHigh => exact write (ioOwner_at_dmaCntL n).2 rfl
    case dmaCntHLow => exact write (ioOwner_at_dmaCntH n).1 (s.writeDmaCntH_low n b)
    case reloadLow => exact write (ioOwner_at_tmCntL n).1 rfl
    case reloadHigh => exact write (ioOwner_at_tmCntL n).2 rfl
    case tmCntHLow => exact write (ioOwner_at_tmCntH n).1 (s.writeTmCntH_low n b)
    case tmCntHHigh => exact write (ioOwner_at_tmCntH n).2 (s.writeTmCntH_high n b)
    case keyinputLow => exact write (r := .keyinput) (k := 0) rfl rfl
    case keyinputHigh => exact write (r := .keyinput) (k := 1) rfl rfl
    case keycntLow => exact write (r := .keycnt) (k := 0) rfl rfl
    case keycntHigh => exact write (r := .keycnt) (k := 1) rfl rfl
    case ieLow => exact write (r := .ie) (k := 0) rfl (State.releaseHalt_eq _)
    case ieHigh => exact write (r := .ie) (k := 1) rfl (State.releaseHalt_eq _)
    case iflagLow => exact write (r := .iflag) (k := 0) rfl (by simp only [State.ioWriteReg, setHalfByte_zero_low])
    case iflagHigh => exact write (r := .iflag) (k := 1) rfl (by simp only [State.ioWriteReg, setHalfByte_zero_high])
    case imeLow => exact write (r := .ime) (k := 0) rfl rfl
    case imeHigh => exact write (r := .ime) (k := 1) rfl rfl
    case haltcnt => exact write (r := .haltcnt) (k := 0) rfl (s.writeHaltcnt_eq b)

end Sys2Proof.Machine

/-! ## What the I/O registers read as (R73 to R76, R447, R473, R485, R492, R493, R498) -/

namespace Sys2Proof.Machine

/-! ### Reads of register bytes -/

/-- The I/O region is the first 0x400 bytes of its page (R61, R62). -/
theorem range_of_region_io {a : Word} {o : Nat} (h : region a = .io o) : 0x4000000 ≤ a.toNat ∧ a.toNat < 0x4000400 := by
  revert h
  unfold region
  simp only
  split <;> (try split) <;> intro h <;> first | omega | cases h

namespace State

/-- A register byte reads as the byte of the register's value (R75). -/
theorem ioReadByte_owner {o : Nat} {r : IoReg} {k : Nat} (owner : ioOwner o = some (r, k)) (s : State) :
    s.ioReadByte o = some (halfByte (s.ioValue r) k) := by
  cases r <;> simp [ioReadByte, owner, ioValue, halfByte]

/-- A read of one or two bytes of a register: its bytes, with no side effect (R75, R76). -/
theorem readsAs_io {s : State} {o n : Nat} (hn : n = 1 ∨ n = 2) (aligned : o % n = 0) {r : IoReg} {k : Nat}
    (owner : ∀ j < n, ioOwner (o + j) = some (r, k + j)) :
    s.ReadsAs (BitVec.ofNat 32 (0x04000000 + o)) n (fun j => halfByte (s.ioValue r) (k + j)) s := by
  have lt : o < 0x400 := ioOwner_lt (owner 0 (by omega))
  have place : ∀ j < n, region (alignTo (BitVec.ofNat 32 (0x04000000 + o)) n + BitVec.ofNat 32 j) = .io (o + j) := by
    intro j hj
    have lt' : o + j < 0x400 := ioOwner_lt (owner j hj)
    have base : (alignTo (BitVec.ofNat 32 (0x04000000 + o)) n).toNat = 0x04000000 + o := by
      rw [alignTo_toNat (by omega), toNat_io lt]
      rcases hn with rfl | rfl <;> omega
    have sum := (alignTo_add_toNat (by omega : n = 1 ∨ n = 2 ∨ n = 4) _ hj).trans (congrArg (· + j) base)
    rw [region_io (by omega) (by omega), sum]
    congr 1
    omega
  have reads := readsAs_of_still (s := s) (a := BitVec.ofNat 32 (0x04000000 + o)) (n := n) (by omega)
    (byte := fun j => halfByte (s.ioValue r) (k + j)) fun j hj => by
      simp only [busReadByte, place j hj, ioReadByte_owner (owner j hj), Option.getD_some]
  rwa [anyByte_eq_false fun j hj => by
    simp only [readMapped, place j hj, owner j hj, Option.isSome_some, Bool.not_true]] at reads

/-- A halfword read of a register whose bytes are those of `w`. -/
theorem memRead_io {s : State} {o : Nat} (even : o % 2 = 0) {r : IoReg} {k : Nat} (low : ioOwner o = some (r, k))
    (high : ioOwner (o + 1) = some (r, k + 1)) {w : Half} (value : ∀ j < 2, halfByte (s.ioValue r) (k + j) = halfByte w j) :
    s.memRead (BitVec.ofNat 32 (0x04000000 + o)) 2 = (w.setWidth 32, s) := by
  have owner : ∀ j < 2, ioOwner (o + j) = some (r, k + j) := by
    intro j hj
    obtain rfl | rfl : j = 0 ∨ j = 1 := by omega
    · exact low
    · exact high
  obtain ⟨bytes, small, same⟩ := readsAs_io (s := s) (.inr rfl) even owner
  refine Prod.ext (BitVec.eq_of_getLsbD_eq fun i hi => ?_) same
  have known := getLsbD_of_bytes (v := w.setWidth 32) small (fun j hj => ?_) i
  · rw [known, BitVec.getLsbD_setWidth]
    by_cases inside : i < 16
    · simp [inside]
    · simp [inside, BitVec.getLsbD_of_ge w i (by omega)]
  · refine ((bytes j hj).trans (value j hj)).trans ?_
    refine BitVec.eq_of_getLsbD_eq fun b hb => ?_
    simp [halfByte, hb, show 8 * j + b < 32 by omega]

/-- A byte read in the I/O region is its byte of the halfword read (R76). -/
theorem memRead_one_of_two {s : State} {a : Word} {o : Nat} (h : region a = .io o) :
    (s.memRead a 1).1 = ((s.memRead a 2).1 >>> (8 * (a.toNat % 2))) &&& 0xFF := by
  obtain ⟨lo, hi⟩ := range_of_region_io h
  have still {n : Nat} (hn : n = 1 ∨ n = 2 ∨ n = 4) : ∀ k < n, s.busReadByte (alignTo a n + BitVec.ofNat 32 k)
      = ((s.busReadByte (alignTo a n + BitVec.ofNat 32 k)).1, s) := by
    intro k hk
    have word := access_word hn a hk
    simp only [busReadByte, region_io (a := alignTo a n + BitVec.ofNat 32 k) (by omega) (by omega)]
  obtain ⟨one, small, -⟩ := readsAs_of_still (s := s) (by decide) (still (.inl rfl))
  obtain ⟨two, -, -⟩ := readsAs_of_still (s := s) (by decide) (still (.inr (.inl rfl)))
  have here : alignTo a 1 + BitVec.ofNat 32 0 = alignTo a 2 + BitVec.ofNat 32 (a.toNat % 2) := by
    apply BitVec.eq_of_toNat_eq
    rw [alignTo_add_toNat (.inl rfl) a (by decide), alignTo_add_toNat (.inr (.inl rfl)) a (by omega),
      alignTo_toNat (.inl rfl), alignTo_toNat (.inr (.inl rfl))]
    omega
  refine eq_and_of_bytes small (fun k hk => ?_) (by decide)
  obtain rfl : k = 0 := by omega
  rw [extractLsb'_ushiftRight]
  calc (s.memRead a 1).1.extractLsb' (8 * 0) 8
    _ = (s.busReadByte (alignTo a 1 + BitVec.ofNat 32 0)).1 := one 0 (by decide)
    _ = (s.busReadByte (alignTo a 2 + BitVec.ofNat 32 (a.toNat % 2))).1 := by rw [here]
    _ = (s.memRead a 2).1.extractLsb' (8 * (a.toNat % 2)) 8 := (two (a.toNat % 2) (by omega)).symm

end State

/-! ### DISPSTAT (R492, R493) -/

/-- DISPSTAT as the stored bits and the flags. -/
theorem Lcd.readDispstat_eq (l : Lcd) : l.readDispstat =
    (l.dispstat &&& 0xFFF8) ||| (if l.vblank then 1 else 0) ||| (if l.hblank then 2 else 0) |||
      (if l.scanline = (l.dispstat.extractLsb' 8 8).toNat then 4 else 0) := by
  unfold readDispstat
  have stored : ∀ (d : Half) (m h v : Bool),
      (d.extractLsb' 3 13 ++ (BitVec.ofBool m ++ BitVec.ofBool h ++ BitVec.ofBool v) : Half) =
      (d &&& 0xFFF8) ||| (if v then 1 else 0) ||| (if h then 2 else 0) ||| (if m then 4 else 0) := by
    intro d m h v
    have mask : ∀ i < 16, (0xFFF8 : Half).getLsbD i = decide (3 ≤ i) := by decide
    have flags : ∀ i < 16, ∀ m h v : Bool,
        ((if v then 1 else 0 : Half) ||| ((if h then 2 else 0) ||| (if m then 4 else 0))).getLsbD i =
          (decide (i < 3) && (BitVec.ofBool m ++ BitVec.ofBool h ++ BitVec.ofBool v).getLsbD i) := by decide
    refine BitVec.eq_of_getLsbD_eq fun i hi => ?_
    rw [BitVec.or_assoc, BitVec.or_assoc, BitVec.getLsbD_or, flags i hi, BitVec.getLsbD_and, mask i hi,
      BitVec.getLsbD_append]
    by_cases low : i < 1 + 1 + 1
    · simp [low, show ¬ 3 ≤ i by omega]
    · simp [low, show 3 ≤ i by omega, show i - 3 < 13 by omega, show 3 + (i - 3) = i by omega]
  rw [stored]
  simp only [beq_iff_eq]

/-! ### The obligation -/

/-- Settles O53: every halfword of a register reads as its value, and a byte as its byte of the halfword. -/
theorem ioRegisterReads : Obligations.IoRegisterReads := by
  unfold Obligations.IoRegisterReads
  intro s n a l dispstat
  have read {o o' : Nat} {r : IoReg} (low : ioOwner o = some (r, 0)) (high : ioOwner o' = some (r, 1))
      (even : o % 2 = 0 := by omega) (next : o' = o + 1 := by omega) :
      s.memRead (BitVec.ofNat 32 (0x04000000 + o)) 2 = ((s.ioValue r).setWidth 32, s) := by
    subst next
    exact State.memRead_io even low high fun j _ => by rw [Nat.zero_add]
  have zero {o o₁ o₂ : Nat} {r : IoReg} {k : Nat} (low : ioOwner o₁ = some (r, k)) (high : ioOwner o₂ = some (r, k + 1))
      (none : s.ioValue r = 0) (here : o₁ = o := by omega) (next : o₂ = o + 1 := by omega) (even : o % 2 = 0 := by omega) :
      s.memRead (BitVec.ofNat 32 (0x04000000 + o)) 2 = ((0 : Half).setWidth 32, s) := by
    subst here next
    exact State.memRead_io even low high fun j _ => by simp [none, halfByte]
  refine ⟨?halfwords, ?haltcnt, fun o h => State.memRead_one_of_two h⟩
  case haltcnt =>
    obtain ⟨bytes, small, same⟩ := State.readsAs_io (s := s) (o := 0x301) (r := .haltcnt) (k := 0) (.inl rfl) rfl fun j hj => by
      obtain rfl : j = 0 := by omega
      rfl
    refine Prod.ext ?_ same
    exact (eq_and_of_bytes (v := 0) (mask := 0xFF) small (fun j hj => by rw [bytes j hj]; simp [State.ioValue, halfByte])
      (by decide)).trans rfl
  case halfwords =>
    simp only [List.forall_mem_cons, List.not_mem_nil, false_implies, implies_true, and_true]
    refine ⟨?dispcnt, ?dispstat, ?vcount, ?bgcnt, ?xofs, ?yofs, ?sadLow, ?sadHigh, ?dadLow, ?dadHigh, ?dmaCntL, ?dmaCntH,
      ?counter, ?control, ?keyinput, ?keycnt, ?ie, ?iflag, ?ime⟩
    case dispcnt => exact read (o' := 0x001) (r := .dispcnt) rfl rfl
    case dispstat => exact (read (o' := 0x005) (r := .dispstat) rfl rfl).trans (by rw [State.ioValue, Lcd.readDispstat_eq])
    case vcount => exact read (o' := 0x007) (r := .vcount) rfl rfl
    case bgcnt => exact read (ioOwner_at_bgcnt n).1 (ioOwner_at_bgcnt n).2
    case xofs => exact read (ioOwner_at_bgXofs n).1 (ioOwner_at_bgXofs n).2
    case yofs => exact read (ioOwner_at_bgYofs n).1 (ioOwner_at_bgYofs n).2
    case sadLow => exact zero (ioOwner_at_dmaSad n 0 (by decide)) (ioOwner_at_dmaSad n 1 (by decide)) rfl
    case sadHigh => exact zero (ioOwner_at_dmaSad n 2 (by decide)) (ioOwner_at_dmaSad n 3 (by decide)) rfl
    case dadLow => exact zero (ioOwner_at_dmaDad n 0 (by decide)) (ioOwner_at_dmaDad n 1 (by decide)) rfl
    case dadHigh => exact zero (ioOwner_at_dmaDad n 2 (by decide)) (ioOwner_at_dmaDad n 3 (by decide)) rfl
    case dmaCntL => exact read (ioOwner_at_dmaCntL n).1 (ioOwner_at_dmaCntL n).2
    case dmaCntH => exact read (ioOwner_at_dmaCntH n).1 (ioOwner_at_dmaCntH n).2
    case counter => exact read (ioOwner_at_tmCntL n).1 (ioOwner_at_tmCntL n).2
    case control => exact read (ioOwner_at_tmCntH n).1 (ioOwner_at_tmCntH n).2
    case keyinput => exact read (o' := 0x131) (r := .keyinput) rfl rfl
    case keycnt => exact read (o' := 0x133) (r := .keycnt) rfl rfl
    case ie => exact read (o' := 0x201) (r := .ie) rfl rfl
    case iflag => exact read (o' := 0x203) (r := .iflag) rfl rfl
    case ime => exact read (o' := 0x209) (r := .ime) rfl rfl

end Sys2Proof.Machine

/-! ## How a DMA transfer ends (R467 to R469, R472; D28, D29, log 19) -/

namespace Sys2Proof.Machine

/-! ### The channel -/

/-- A channel after `k` units (R467, R468). -/
def DmaChannel.movedBy (ch : DmaChannel) (unit k : Nat) : DmaChannel :=
  { ch with curDst := ch.curDst + BitVec.ofNat 32 k * dmaDstStep ch.dstCtl unit
            curSrc := ch.curSrc + BitVec.ofNat 32 k * dmaSrcStep ch.srcCtl unit
            remaining := ch.remaining - k }

/-- A channel whose transfer has completed: re-armed or disabled (R469). -/
def DmaChannel.completed (ch : DmaChannel) (n : Fin 4) : DmaChannel :=
  if ch.repeats ∧ ch.timing ≠ 0 then
    { ch with remaining := dmaCount n ch.cntL, curDst := if ch.dstCtl = 3 then ch.dad &&& dmaDstMask n else ch.curDst }
  else { ch with cntH := ch.cntH &&& 0x7FFF }

/-- The address after one more step. -/
theorem add_succ_steps (a d : Word) (k : Nat) : a + BitVec.ofNat 32 (k + 1) * d = a + d + BitVec.ofNat 32 k * d := by
  rw [BitVec.ofNat_add, BitVec.add_mul, BitVec.one_mul, BitVec.add_comm _ d, ← BitVec.add_assoc]

theorem DmaChannel.movedBy_zero (ch : DmaChannel) (unit : Nat) : ch.movedBy unit 0 = ch := by
  simp [movedBy]

theorem DmaChannel.moved_movedBy (ch : DmaChannel) (unit k : Nat) :
    (ch.moved unit).movedBy unit k = ch.movedBy unit (k + 1) := by
  have left : ch.remaining - 1 - k = ch.remaining - (k + 1) := by omega
  simp only [movedBy, moved, add_succ_steps, left, dstCtl, srcCtl]

/-! ### Turns to plain destinations (R467, R468) -/

/-- Channel `n` becomes `ch`; the other channels and the interrupt registers stay. -/
structure ChannelStep (s t : State) (n : Fin 4) (ch : DmaChannel) : Prop where
  dma : t.dma = s.dma.set n ch
  iflag : t.iflag = s.iflag
  ie : t.ie = s.ie

namespace ChannelStep

variable {s t u : State} {n : Fin 4} {ch ch' : DmaChannel}

theorem channel (h : ChannelStep s t n ch) : t.dma[n] = ch := by
  simp [h.dma]

theorem other (h : ChannelStep s t n ch) {m : Fin 4} (hm : m ≠ n) : t.dma[m] = s.dma[m] := by
  have : n.val ≠ m.val := fun g => hm (Fin.ext g.symm)
  simp [h.dma, this]

theorem trans (h : ChannelStep s t n ch) (h' : ChannelStep t u n ch') : ChannelStep s u n ch' where
  dma := by rw [h'.dma, h.dma, Vector.set_set]
  iflag := h'.iflag.trans h.iflag
  ie := h'.ie.trans h.ie

/-- A turn to a destination that is no I/O register moves its channel (R467, R468). -/
theorem dmaUnit (s : State) (n : Fin 4) (unit : Nat)
    (noIo : ∀ j < unit, ∀ o, region (alignTo s.dma[n].curDst unit + BitVec.ofNat 32 j) ≠ .io o) :
    ChannelStep s (s.dmaUnit n unit) n (s.dma[n].moved unit) := by
  have read := s.memRead_dma s.dma[n].curSrc unit
  have devices := State.memWrite_noIo (s := (s.memRead s.dma[n].curSrc unit).2) (s.memRead s.dma[n].curSrc unit).1 noIo
  have dma := devices.dma.trans read
  have unitEq := s.dmaUnit_eq n unit
  simp only [read, dma] at unitEq
  rw [unitEq]
  exact ⟨by simp only [State.setDma, dma], devices.iflag.trans (by simp), devices.ie.trans (by simp)⟩

/-- A whole loop of turns to plain destinations uses up the count (R467). -/
theorem dmaLoop (n : Fin 4) (unit k : Nat) : ∀ s : State, s.dma[n].enable = true → s.dma[n].remaining = k →
    (∀ i < k, ∀ j < unit, ∀ o,
      region (alignTo (s.dma[n].curDst + BitVec.ofNat 32 i * dmaDstStep s.dma[n].dstCtl unit) unit + BitVec.ofNat 32 j) ≠ .io o) →
    ChannelStep s (State.dmaLoop n unit k s) n (s.dma[n].movedBy unit k) := by
  induction k with
  | zero =>
    intro s _ _ _
    rw [DmaChannel.movedBy_zero]
    exact ⟨by simp [State.dmaLoop], rfl, rfl⟩
  | succ k ih =>
    intro s enabled units noIo
    have turn := dmaUnit s n unit (by simpa using noIo 0 (by omega))
    have rest := ih (s.dmaUnit n unit) (by rw [turn.channel]; exact enabled)
      (by rw [turn.channel]; show s.dma[n].remaining - 1 = k; omega) fun i hi j hj o => by
        rw [turn.channel]
        have plain := noIo (i + 1) (by omega) j hj o
        rwa [add_succ_steps] at plain
    rw [State.dmaLoop_turn (by omega) enabled, ← DmaChannel.moved_movedBy, ← turn.channel]
    exact turn.trans rest

end ChannelStep

/-- Completion: the end IRQ, then the channel re-armed or disabled (R469). -/
theorem State.dmaComplete_eq (s : State) (n : Fin 4) :
    s.dmaComplete n = (s.requestIf s.dma[n].irq (8 + n)).setDma n (s.dma[n].completed n) := by
  have dma : (s.requestIf s.dma[n].irq (8 + n)).dma = s.dma := by simp
  unfold dmaComplete DmaChannel.completed
  simp only [dma]
  split <;> rfl

/-- The start of a transfer: source control 3 leaves a diagnostic (R468). -/
def State.dmaStart (s : State) (n : Fin 4) : State :=
  if s.dma[n].srcCtl = 3 then s.emit (.unpredictable .dmaSourceControl) (BitVec.ofNat 32 n) else s

theorem State.dmaStart_keeps (s : State) (n : Fin 4) :
    (s.dmaStart n).dma = s.dma ∧ (s.dmaStart n).iflag = s.iflag ∧ (s.dmaStart n).ie = s.ie := by
  unfold dmaStart
  split <;> exact ⟨rfl, rfl, rfl⟩

/-- A transfer is its start, its loop, and its completion when the count is used up (R467). -/
theorem State.dmaRun_eq (s : State) (n : Fin 4) :
    let u := State.dmaLoop n s.dma[n].unit s.dma[n].remaining (s.dmaStart n)
    s.dmaRun n = if u.dma[n].remaining = 0 then u.dmaComplete n else u := rfl

/-! ### The turns of any transfer (R467, R472) -/

/-- `k` turns of a channel. -/
def State.dmaTurns (n : Fin 4) (unit k : Nat) (s : State) : State := Nat.repeat (fun u => State.dmaUnit u n unit) k s

theorem State.dmaTurns_succ (n : Fin 4) (unit k : Nat) (s : State) :
    State.dmaTurns n unit (k + 1) s = State.dmaTurns n unit k (s.dmaUnit n unit) := by
  induction k with
  | zero => rfl
  | succ k ih => exact congrArg (fun u => State.dmaUnit u n unit) ih

/-- The loop is a number of turns, at most the count: it goes on exactly while units are left and the channel is enabled. -/
theorem State.dmaLoop_turns {n : Fin 4} {unit : Nat} (hu : unit = 2 ∨ unit = 4) (fuel : Nat) :
    ∀ s : State, s.dma[n].remaining ≤ fuel → ∃ k ≤ s.dma[n].remaining,
      (∀ j < k, (dmaTurns n unit j s).dma[n].remaining ≠ 0 ∧ (dmaTurns n unit j s).dma[n].enable = true) ∧
      dmaLoop n unit fuel s = dmaTurns n unit k s := by
  induction fuel with
  | zero => exact fun s _ => ⟨0, Nat.zero_le _, fun j hj => absurd hj (Nat.not_lt_zero j), rfl⟩
  | succ fuel ih =>
    intro s enough
    by_cases more : s.dma[n].remaining ≠ 0 ∧ s.dma[n].enable = true
    case neg => exact ⟨0, Nat.zero_le _, fun j hj => absurd hj (Nat.not_lt_zero j), if_neg more⟩
    case pos =>
      obtain ⟨left, enabled⟩ := more
      rw [dmaLoop_turn left enabled]
      cases still : (s.dmaUnit n unit).dma[n].enable with
      | false =>
        rw [dmaLoop_of_disabled still]
        refine ⟨1, by omega, fun j hj => ?_, rfl⟩
        obtain rfl : j = 0 := by omega
        exact ⟨left, enabled⟩
      | true =>
        have counted := dmaUnit_counts hu enabled still
        obtain ⟨k, bound, running, same⟩ := ih (s.dmaUnit n unit) (by omega)
        refine ⟨k + 1, by omega, fun j hj => ?_, by rw [dmaTurns_succ, same]⟩
        cases j with
        | zero => exact ⟨left, enabled⟩
        | succ j =>
          rw [dmaTurns_succ]
          exact running j (by omega)

/-! ### The obligation -/

/-- A transfer of an enabled channel to plain destinations: its count is used up, then it completes (R467, R469). -/
theorem State.dmaRun_plain {s : State} {n : Fin 4} {ch : DmaChannel} (here : s.dma[n] = ch) (enabled : ch.enable = true)
    (noIo : ∀ i < ch.remaining, ∀ j < ch.unit, ∀ o,
      region (alignTo (ch.curDst + BitVec.ofNat 32 i * dmaDstStep ch.dstCtl ch.unit) ch.unit + BitVec.ofNat 32 j) ≠ .io o) :
    let t := s.dmaRun n
    t.dma = s.dma.set n ((ch.movedBy ch.unit ch.remaining).completed n) ∧
      t.iflag = (if ch.irq then s.iflag ||| (1#16 <<< (8 + n.val)) else s.iflag) ∧ t.ie = s.ie := by
  subst here
  intro t
  obtain ⟨dma, iflag, ie⟩ := s.dmaStart_keeps n
  let u := State.dmaLoop n s.dma[n].unit s.dma[n].remaining (s.dmaStart n)
  have loop : ChannelStep (s.dmaStart n) u n (s.dma[n].movedBy s.dma[n].unit s.dma[n].remaining) := by
    have turns := ChannelStep.dmaLoop n s.dma[n].unit s.dma[n].remaining (s.dmaStart n)
    simp only [dma, forall_const] at turns
    exact turns enabled noIo
  have used : u.dma[n].remaining = 0 := by rw [loop.channel]; exact Nat.sub_self _
  have irq : u.dma[n].irq = s.dma[n].irq := by rw [loop.channel]; rfl
  have ran : t = u.dmaComplete n := (s.dmaRun_eq n).trans (if_pos used)
  rw [ran, dmaComplete_eq, irq, loop.channel]
  refine ⟨?_, ?_, ?_⟩
  · simp [setDma, loop.dma, dma]
  · show (u.requestIf s.dma[n].irq (8 + n)).iflag = _
    cases s.dma[n].irq <;> simp [requestIf, loop.iflag, iflag]
  · show (u.requestIf s.dma[n].irq (8 + n)).ie = _
    cases s.dma[n].irq <;> simp [requestIf, request_eq, loop.ie, ie]

/-- Settles O55: turns move the channel until the count is used up or a write of the transfer disables it. -/
theorem dmaTransferCompletes : Obligations.DmaTransferCompletes := by
  refine ⟨?plain, ?any⟩
  case plain =>
    intro s n ch unit step ds again t enabled noIo
    have dst : dmaDstStep ch.dstCtl ch.unit = ds := dmaDstStep_eq _ _
    have src : dmaSrcStep ch.srcCtl ch.unit = step (ch.cntH.extractLsb' 7 2) := dmaDstStep_eq _ _
    obtain ⟨dma, iflag, ie⟩ := State.dmaRun_plain (s := s) (n := n) rfl enabled fun i hi j hj o => by
      rw [show dmaDstStep s.dma[n].dstCtl s.dma[n].unit = ds from dst]
      exact noIo i hi j hj o
    have cpu := SameCpu.dmaRun s n
    have channel : t.dma[n] = (ch.movedBy ch.unit ch.remaining).completed n := by simp [t, dma, ch]
    have others : ∀ m : Fin 4, m ≠ n → t.dma[m] = s.dma[m] := fun m hm => by
      have : n.val ≠ m.val := fun g => hm (Fin.ext g.symm)
      simp [t, dma, this]
    have rearmed : again = true ↔ (ch.movedBy ch.unit ch.remaining).repeats ∧ (ch.movedBy ch.unit ch.remaining).timing ≠ 0 := by
      simp [again, DmaChannel.movedBy, DmaChannel.repeats, DmaChannel.timing]
    rw [channel]
    refine ⟨?src, ?dst, ?count, ?control, iflag, others, cpu.gpr, cpu.r15, cpu.cpsr, ie⟩
    all_goals
      unfold DmaChannel.completed
      simp only [← rearmed, ← src, ← dst]
      by_cases a : again = true <;> simp [a, DmaChannel.movedBy, DmaChannel.dstCtl]
  case any =>
    intro s n ch unit start after
    have hu : unit = 2 ∨ unit = 4 := by unfold unit; split <;> simp
    have count : start.dma[n].remaining = ch.remaining := by
      simp only [show start.dma = s.dma from (s.dmaStart_keeps n).1, ch]
    obtain ⟨k, bound, running, same⟩ := State.dmaLoop_turns hu ch.remaining start (Nat.le_of_eq count)
    have stop := State.dmaLoop_exit hu ch.remaining start (Nat.le_of_eq count)
    have run := s.dmaRun_eq n
    rw [show State.dmaLoop n s.dma[n].unit s.dma[n].remaining (s.dmaStart n) = after k from same] at run
    rw [show State.dmaLoop n unit ch.remaining start = after k from same] at stop
    exact ⟨k, by omega, running, stop, run⟩

end Sys2Proof.Machine
